-- ==== Sys2Proof/Word.lean ====
section
/-! DEFINITION. The word the block decodes and the widths of its fields (00_scope.md R7, R8). -/

namespace Sys2Proof

/-- The instruction word: `word[31]` is the most significant bit (20_memory.md R41). -/
abbrev Word := BitVec 32
/-- The 6-bit primary operation selector (00_scope.md R7, OPCODE_WIDTH). -/
abbrev Opcode := BitVec 6
/-- A register field: an opaque 5-bit number, not a storage location (10_state.md R22). -/
abbrev Reg := BitVec 5
/-- The shift amount field (00_scope.md R7, SHAMT_WIDTH). -/
abbrev Shamt := BitVec 5
/-- The function code field (00_scope.md R7, FUNCT_WIDTH). -/
abbrev Funct := BitVec 6
/-- The 16-bit immediate or offset field, raw (30_encoding.md R65). -/
abbrev Imm := BitVec 16
/-- The 26-bit address or target field, raw (30_encoding.md R65). -/
abbrev Target := BitVec 26
/-- One byte of a word supplier's image, outside the block (20_memory.md R42). -/
abbrev Byte := BitVec 8

end Sys2Proof
end

