-- ==== Sys2Proof/Syntax.lean ====
section
/-! DEFINITION. The syntax of the decoder: format classes, the 52 mnemonics, the decoded record, and the typed
instruction `Instr` with one constructor per row of opcode_table.json. -/

namespace Sys2Proof

/-- The format class of an opcode (00_scope.md R11, "one of R, I, J"). -/
inductive FormatClass where
  | r
  | i
  | j
deriving DecidableEq, Repr

/-- The closed set of 52 mnemonics, in the order of their port codes (10_state.md R28). -/
inductive Mnemonic where
  | nop
  | sll
  | srl
  | sra
  | sllv
  | srlv
  | srav
  | jr
  | jalr
  | syscall
  | mfhi
  | mflo
  | mult
  | multu
  | div
  | divu
  | add
  | addu
  | sub
  | subu
  | and
  | or
  | xor
  | nor
  | slt
  | sltu
  | bltz
  | bgez
  | bltzal
  | bgezal
  | beq
  | bne
  | blez
  | bgtz
  | addi
  | addiu
  | slti
  | sltiu
  | andi
  | ori
  | xori
  | lui
  | lb
  | lh
  | lw
  | lbu
  | lhu
  | sb
  | sh
  | sw
  | j
  | jal
deriving DecidableEq, Repr

/-- Every mnemonic, in the order of 10_state.md R28. -/
def Mnemonic.all : List Mnemonic :=
  [.nop, .sll, .srl, .sra, .sllv, .srlv, .srav, .jr, .jalr, .syscall,
   .mfhi, .mflo, .mult, .multu, .div, .divu, .add, .addu, .sub, .subu,
   .and, .or, .xor, .nor, .slt, .sltu, .bltz, .bgez, .bltzal, .bgezal,
   .beq, .bne, .blez, .bgtz, .addi, .addiu, .slti, .sltiu, .andi, .ori,
   .xori, .lui, .lb, .lh, .lw, .lbu, .lhu, .sb, .sh, .sw,
   .j, .jal]

/-- The format column of 10_state.md R28: a mnemonic always comes with the same format. -/
def Mnemonic.formatClass : Mnemonic → FormatClass
  | .nop | .sll | .srl | .sra | .sllv | .srlv | .srav | .jr | .jalr
  | .syscall | .mfhi | .mflo | .mult | .multu | .div | .divu | .add | .addu
  | .sub | .subu | .and | .or | .xor | .nor | .slt | .sltu => .r
  | .bltz | .bgez | .bltzal | .bgezal | .beq | .bne | .blez | .bgtz | .addi
  | .addiu | .slti | .sltiu | .andi | .ori | .xori | .lui | .lb | .lh
  | .lw | .lbu | .lhu | .sb | .sh | .sw => .i
  | .j | .jal => .j

/-- The format of a decoded record, each variant with exactly its own fields, all raw (00_scope.md R10, 10_state.md R25). -/
inductive Format where
  | r (rs rt rd : Reg) (shamt : Shamt) (funct : Funct)
  | i (rs rt : Reg) (imm : Imm)
  | j (target : Target)
deriving DecidableEq, Repr

/-- Which variant a format is. -/
def Format.formatClass : Format → FormatClass
  | .r _ _ _ _ _ => .r
  | .i _ _ _ => .i
  | .j _ => .j

/-- The decoded record: the word kept verbatim, the mnemonic, the format (10_state.md R25). -/
structure Instruction where
  raw : Word
  mnem : Mnemonic
  fmt : Format
deriving DecidableEq, Repr

/-- The typed instruction: one constructor per row of opcode_table.json, carrying the fields its row leaves free.
A field the row fixes (funct; rt of a REGIMM row and of `blez` and `bgtz`; shamt of `nop`) is not carried.
`sll` needs `shamt ≠ 0`, which `Instr.wf` checks. -/
inductive Instr where
  /-- R130 -/
  | nop (rs rt rd : Reg)
  /-- R131 -/
  | sll (rs rt rd : Reg) (shamt : Shamt)
  /-- R132 -/
  | srl (rs rt rd : Reg) (shamt : Shamt)
  /-- R133 -/
  | sra (rs rt rd : Reg) (shamt : Shamt)
  /-- R134 -/
  | sllv (rs rt rd : Reg) (shamt : Shamt)
  /-- R135 -/
  | srlv (rs rt rd : Reg) (shamt : Shamt)
  /-- R136 -/
  | srav (rs rt rd : Reg) (shamt : Shamt)
  /-- R137 -/
  | jr (rs rt rd : Reg) (shamt : Shamt)
  /-- R138 -/
  | jalr (rs rt rd : Reg) (shamt : Shamt)
  /-- R139 -/
  | syscall (rs rt rd : Reg) (shamt : Shamt)
  /-- R140 -/
  | mfhi (rs rt rd : Reg) (shamt : Shamt)
  /-- R141 -/
  | mflo (rs rt rd : Reg) (shamt : Shamt)
  /-- R142 -/
  | mult (rs rt rd : Reg) (shamt : Shamt)
  /-- R143 -/
  | multu (rs rt rd : Reg) (shamt : Shamt)
  /-- R144 -/
  | div (rs rt rd : Reg) (shamt : Shamt)
  /-- R145 -/
  | divu (rs rt rd : Reg) (shamt : Shamt)
  /-- R146 -/
  | add (rs rt rd : Reg) (shamt : Shamt)
  /-- R147 -/
  | addu (rs rt rd : Reg) (shamt : Shamt)
  /-- R148 -/
  | sub (rs rt rd : Reg) (shamt : Shamt)
  /-- R149 -/
  | subu (rs rt rd : Reg) (shamt : Shamt)
  /-- R150 -/
  | and (rs rt rd : Reg) (shamt : Shamt)
  /-- R151 -/
  | or (rs rt rd : Reg) (shamt : Shamt)
  /-- R152 -/
  | xor (rs rt rd : Reg) (shamt : Shamt)
  /-- R153 -/
  | nor (rs rt rd : Reg) (shamt : Shamt)
  /-- R154 -/
  | slt (rs rt rd : Reg) (shamt : Shamt)
  /-- R155 -/
  | sltu (rs rt rd : Reg) (shamt : Shamt)
  /-- R170 -/
  | bltz (rs : Reg) (imm : Imm)
  /-- R171 -/
  | bgez (rs : Reg) (imm : Imm)
  /-- R172 -/
  | bltzal (rs : Reg) (imm : Imm)
  /-- R173 -/
  | bgezal (rs : Reg) (imm : Imm)
  /-- R174 -/
  | beq (rs rt : Reg) (imm : Imm)
  /-- R175 -/
  | bne (rs rt : Reg) (imm : Imm)
  /-- R176 -/
  | blez (rs : Reg) (imm : Imm)
  /-- R177 -/
  | bgtz (rs : Reg) (imm : Imm)
  /-- R178 -/
  | addi (rs rt : Reg) (imm : Imm)
  /-- R179 -/
  | addiu (rs rt : Reg) (imm : Imm)
  /-- R180 -/
  | slti (rs rt : Reg) (imm : Imm)
  /-- R181 -/
  | sltiu (rs rt : Reg) (imm : Imm)
  /-- R182 -/
  | andi (rs rt : Reg) (imm : Imm)
  /-- R183 -/
  | ori (rs rt : Reg) (imm : Imm)
  /-- R184 -/
  | xori (rs rt : Reg) (imm : Imm)
  /-- R185 -/
  | lui (rs rt : Reg) (imm : Imm)
  /-- R186 -/
  | lb (rs rt : Reg) (imm : Imm)
  /-- R187 -/
  | lh (rs rt : Reg) (imm : Imm)
  /-- R188 -/
  | lw (rs rt : Reg) (imm : Imm)
  /-- R189 -/
  | lbu (rs rt : Reg) (imm : Imm)
  /-- R190 -/
  | lhu (rs rt : Reg) (imm : Imm)
  /-- R191 -/
  | sb (rs rt : Reg) (imm : Imm)
  /-- R192 -/
  | sh (rs rt : Reg) (imm : Imm)
  /-- R193 -/
  | sw (rs rt : Reg) (imm : Imm)
  /-- R210 -/
  | j (target : Target)
  /-- R211 -/
  | jal (target : Target)
deriving DecidableEq, Repr

/-- The mnemonic a typed instruction stands for. -/
def Instr.mnemonic : Instr → Mnemonic
  | .nop .. => .nop
  | .sll .. => .sll
  | .srl .. => .srl
  | .sra .. => .sra
  | .sllv .. => .sllv
  | .srlv .. => .srlv
  | .srav .. => .srav
  | .jr .. => .jr
  | .jalr .. => .jalr
  | .syscall .. => .syscall
  | .mfhi .. => .mfhi
  | .mflo .. => .mflo
  | .mult .. => .mult
  | .multu .. => .multu
  | .div .. => .div
  | .divu .. => .divu
  | .add .. => .add
  | .addu .. => .addu
  | .sub .. => .sub
  | .subu .. => .subu
  | .and .. => .and
  | .or .. => .or
  | .xor .. => .xor
  | .nor .. => .nor
  | .slt .. => .slt
  | .sltu .. => .sltu
  | .bltz .. => .bltz
  | .bgez .. => .bgez
  | .bltzal .. => .bltzal
  | .bgezal .. => .bgezal
  | .beq .. => .beq
  | .bne .. => .bne
  | .blez .. => .blez
  | .bgtz .. => .bgtz
  | .addi .. => .addi
  | .addiu .. => .addiu
  | .slti .. => .slti
  | .sltiu .. => .sltiu
  | .andi .. => .andi
  | .ori .. => .ori
  | .xori .. => .xori
  | .lui .. => .lui
  | .lb .. => .lb
  | .lh .. => .lh
  | .lw .. => .lw
  | .lbu .. => .lbu
  | .lhu .. => .lhu
  | .sb .. => .sb
  | .sh .. => .sh
  | .sw .. => .sw
  | .j .. => .j
  | .jal .. => .jal

end Sys2Proof
end

