-- ==== Sys2Proof/Config.lean ====
section
/-! DEFINITION. The two configuration values that are fixed when the block is built (10_state.md R24). -/

namespace Sys2Proof

/-- The build-time parameters (10_state.md R24, 00_scope.md R7). -/
structure Config where
  /-- RECOGNIZED_SET (30_encoding.md R73). Only membership has a meaning, not order or repetition. -/
  recognized : List Mnemonic
  /-- RENDER_VERBOSE (44_renderer.md R225). It belongs to the renderer outside the block. -/
  renderVerbose : Bool
deriving DecidableEq, Repr

/-- The defaults of 00_scope.md R7: all 52 mnemonics, canonical rendering. -/
def Config.default : Config :=
  { recognized := Mnemonic.all, renderVerbose := false }

/-- Whether a mnemonic is in RECOGNIZED_SET. -/
def Config.recognizes (c : Config) (m : Mnemonic) : Bool :=
  decide (m ∈ c.recognized)

end Sys2Proof
end

