-- ==== Sys2Proof/WellFormed.lean ====
section
/-! DEFINITION. Which typed instructions an encoding exists for. -/

namespace Sys2Proof

/-- `sll` has no encoding with shift amount 0: those words are `nop` (30_encoding.md R68). Every field of every other
constructor may hold every value (30_encoding.md R78). -/
def Instr.wf : Instr → Bool
  | .sll _ _ _ shamt => decide (shamt ≠ 0#5)
  | .nop .. => true
  | .srl .. => true
  | .sra .. => true
  | .sllv .. => true
  | .srlv .. => true
  | .srav .. => true
  | .jr .. => true
  | .jalr .. => true
  | .syscall .. => true
  | .mfhi .. => true
  | .mflo .. => true
  | .mult .. => true
  | .multu .. => true
  | .div .. => true
  | .divu .. => true
  | .add .. => true
  | .addu .. => true
  | .sub .. => true
  | .subu .. => true
  | .and .. => true
  | .or .. => true
  | .xor .. => true
  | .nor .. => true
  | .slt .. => true
  | .sltu .. => true
  | .bltz .. => true
  | .bgez .. => true
  | .bltzal .. => true
  | .bgezal .. => true
  | .beq .. => true
  | .bne .. => true
  | .blez .. => true
  | .bgtz .. => true
  | .addi .. => true
  | .addiu .. => true
  | .slti .. => true
  | .sltiu .. => true
  | .andi .. => true
  | .ori .. => true
  | .xori .. => true
  | .lui .. => true
  | .lb .. => true
  | .lh .. => true
  | .lw .. => true
  | .lbu .. => true
  | .lhu .. => true
  | .sb .. => true
  | .sh .. => true
  | .sw .. => true
  | .j .. => true
  | .jal .. => true

end Sys2Proof
end

