-- ==== Sys2Proof/Decode.lean ====
section
/-! DEFINITION. The decoder: field slices, the constant tables, the three resolvers, the record `decode` yields, the typed
decoder `decode`, the encoder, the mask and match table, and the byte assembly a word supplier makes.
One negative outcome, `none` (40_dispatch.md R111); `rejection` names its cause for a reader, and no output carries it. -/

namespace Sys2Proof

/-! ### Field slices (30_encoding.md R61 to R65): unsigned, never extended, shifted or combined -/

/-- `word[31:26]` (30_encoding.md R61). -/
def opcodeOf (w : Word) : Opcode := w.extractLsb' 26 6
/-- `word[25:21]` (30_encoding.md R62, R63). -/
def rsOf (w : Word) : Reg := w.extractLsb' 21 5
/-- `word[20:16]` (30_encoding.md R62, R63). -/
def rtOf (w : Word) : Reg := w.extractLsb' 16 5
/-- `word[15:11]` (30_encoding.md R62). -/
def rdOf (w : Word) : Reg := w.extractLsb' 11 5
/-- `word[10:6]` (30_encoding.md R62). -/
def shamtOf (w : Word) : Shamt := w.extractLsb' 6 5
/-- `word[5:0]` (30_encoding.md R62). -/
def functOf (w : Word) : Funct := w.extractLsb' 0 6
/-- `word[15:0]` (30_encoding.md R63). -/
def immOf (w : Word) : Imm := w.extractLsb' 0 16
/-- `word[25:0]` (30_encoding.md R64). -/
def targetOf (w : Word) : Target := w.extractLsb' 0 26

/-- The R variant with the word's own fields (41_r_format.md R129). -/
def formatR (w : Word) : Format := .r (rsOf w) (rtOf w) (rdOf w) (shamtOf w) (functOf w)
/-- The I variant with the word's own fields; rt is kept even where it selects (42_i_format.md R169). -/
def formatI (w : Word) : Format := .i (rsOf w) (rtOf w) (immOf w)
/-- The J variant with the word's own field (43_j_format.md R209). -/
def formatJ (w : Word) : Format := .j (targetOf w)

/-! ### The constant tables (10_state.md R21) -/

/-- The Format Classifier (30_encoding.md R66); `none` is "unknown". -/
def classifier (opc : Opcode) : Option FormatClass :=
  match opc with
  | 0x00#6 => some .r
  | 0x01#6 => some .i
  | 0x02#6 => some .j
  | 0x03#6 => some .j
  | 0x04#6 => some .i
  | 0x05#6 => some .i
  | 0x06#6 => some .i
  | 0x07#6 => some .i
  | 0x08#6 => some .i
  | 0x09#6 => some .i
  | 0x0A#6 => some .i
  | 0x0B#6 => some .i
  | 0x0C#6 => some .i
  | 0x0D#6 => some .i
  | 0x0E#6 => some .i
  | 0x0F#6 => some .i
  | 0x20#6 => some .i
  | 0x21#6 => some .i
  | 0x23#6 => some .i
  | 0x24#6 => some .i
  | 0x25#6 => some .i
  | 0x28#6 => some .i
  | 0x29#6 => some .i
  | 0x2B#6 => some .i
  | _ => none

/-- The function-code table (30_encoding.md R67). Function code 0 gives `sll` here; `resolveR` tests for `nop` first (R68). -/
def functTable (funct : Funct) : Option Mnemonic :=
  match funct with
  | 0x00#6 => some .sll
  | 0x02#6 => some .srl
  | 0x03#6 => some .sra
  | 0x04#6 => some .sllv
  | 0x06#6 => some .srlv
  | 0x07#6 => some .srav
  | 0x08#6 => some .jr
  | 0x09#6 => some .jalr
  | 0x0C#6 => some .syscall
  | 0x10#6 => some .mfhi
  | 0x12#6 => some .mflo
  | 0x18#6 => some .mult
  | 0x19#6 => some .multu
  | 0x1A#6 => some .div
  | 0x1B#6 => some .divu
  | 0x20#6 => some .add
  | 0x21#6 => some .addu
  | 0x22#6 => some .sub
  | 0x23#6 => some .subu
  | 0x24#6 => some .and
  | 0x25#6 => some .or
  | 0x26#6 => some .xor
  | 0x27#6 => some .nor
  | 0x2A#6 => some .slt
  | 0x2B#6 => some .sltu
  | _ => none

/-- The REGIMM table of opcode 1, keyed by rt (30_encoding.md R69). -/
def regimmTable (rt : Reg) : Option Mnemonic :=
  match rt with
  | 0x00#5 => some .bltz
  | 0x01#5 => some .bgez
  | 0x10#5 => some .bltzal
  | 0x11#5 => some .bgezal
  | _ => none

/-- The I-format opcodes other than REGIMM (30_encoding.md R70, R71). -/
def iOpTable (opc : Opcode) : Option Mnemonic :=
  match opc with
  | 0x04#6 => some .beq
  | 0x05#6 => some .bne
  | 0x06#6 => some .blez
  | 0x07#6 => some .bgtz
  | 0x08#6 => some .addi
  | 0x09#6 => some .addiu
  | 0x0A#6 => some .slti
  | 0x0B#6 => some .sltiu
  | 0x0C#6 => some .andi
  | 0x0D#6 => some .ori
  | 0x0E#6 => some .xori
  | 0x0F#6 => some .lui
  | 0x20#6 => some .lb
  | 0x21#6 => some .lh
  | 0x23#6 => some .lw
  | 0x24#6 => some .lbu
  | 0x25#6 => some .lhu
  | 0x28#6 => some .sb
  | 0x29#6 => some .sh
  | 0x2B#6 => some .sw
  | _ => none

/-- The J-format opcodes (30_encoding.md R72). -/
def jTable (opc : Opcode) : Option Mnemonic :=
  match opc with
  | 0x02#6 => some .j
  | 0x03#6 => some .jal
  | _ => none

/-! ### The resolvers and the record -/

/-- `resolveR` (41_r_format.md R129): the no-op test comes before the function-code table (30_encoding.md R68). -/
def resolveR (w : Word) : Option (Mnemonic × Format) :=
  if functOf w = 0#6 ∧ shamtOf w = 0#5 then some (.nop, formatR w)
  else (functTable (functOf w)).map fun m => (m, formatR w)

/-- `resolveI` (42_i_format.md R169). -/
def resolveI (opc : Opcode) (w : Word) : Option (Mnemonic × Format) :=
  if opc = 0x01#6 then (regimmTable (rtOf w)).map fun m => (m, formatI w)
  else if (opc = 0x06#6 ∨ opc = 0x07#6) ∧ rtOf w ≠ 0#5 then none
  else (iOpTable opc).map fun m => (m, formatI w)

/-- `resolveJ` (43_j_format.md R209). -/
def resolveJ (opc : Opcode) (w : Word) : Option (Mnemonic × Format) :=
  (jTable opc).map fun m => (m, formatJ w)

/-- Classification and dispatch (40_dispatch.md R101 to R103). -/
def resolve (w : Word) : Option (Mnemonic × Format) :=
  match classifier (opcodeOf w) with
  | none => none
  | some .r => resolveR w
  | some .i => resolveI (opcodeOf w) w
  | some .j => resolveJ (opcodeOf w) w

/-- The block's function (40_dispatch.md R104, R105): the record of a word, or `none` for "unrecognized". -/
def decodeRecord (c : Config) (w : Word) : Option Instruction :=
  match resolve w with
  | none => none
  | some (m, f) => if c.recognizes m then some { raw := w, mnem := m, fmt := f } else none

/-- The causes of "unrecognized" (60_exceptions.md R240). No output of the block carries them (R241). -/
inductive Cause where
  /-- (a): the opcode is outside the Format Classifier. -/
  | opcodeAbsent
  /-- (b): the function code is outside its table. -/
  | functAbsent
  /-- (c): the I-format (opcode, rt) pair is outside its table. -/
  | selectorAbsent
  /-- (d): the mnemonic is outside RECOGNIZED_SET. -/
  | notRecognized
deriving DecidableEq, Repr

/-- The cause when a format's own resolver has no entry. A J-format word always has one (43_j_format.md R209). -/
def Cause.ofClass : FormatClass → Cause
  | .r => .functAbsent
  | .i => .selectorAbsent
  | .j => .opcodeAbsent

/-- Why a word is unrecognized, the causes tried in the order of 60_exceptions.md R243; `none` for a recognized word. -/
def rejection (c : Config) (w : Word) : Option Cause :=
  match classifier (opcodeOf w) with
  | none => some .opcodeAbsent
  | some cls =>
    match resolve w with
    | none => some (Cause.ofClass cls)
    | some (m, _) => if c.recognizes m then none else some .notRecognized

/-! ### The typed instruction of a word -/

/-- The typed instruction of an R-format mnemonic and its fields; `none` for a mnemonic of another format. -/
def Instr.ofR (m : Mnemonic) (rs rt rd : Reg) (shamt : Shamt) : Option Instr :=
  match m with
  | .nop => some (.nop rs rt rd)
  | .sll => some (.sll rs rt rd shamt)
  | .srl => some (.srl rs rt rd shamt)
  | .sra => some (.sra rs rt rd shamt)
  | .sllv => some (.sllv rs rt rd shamt)
  | .srlv => some (.srlv rs rt rd shamt)
  | .srav => some (.srav rs rt rd shamt)
  | .jr => some (.jr rs rt rd shamt)
  | .jalr => some (.jalr rs rt rd shamt)
  | .syscall => some (.syscall rs rt rd shamt)
  | .mfhi => some (.mfhi rs rt rd shamt)
  | .mflo => some (.mflo rs rt rd shamt)
  | .mult => some (.mult rs rt rd shamt)
  | .multu => some (.multu rs rt rd shamt)
  | .div => some (.div rs rt rd shamt)
  | .divu => some (.divu rs rt rd shamt)
  | .add => some (.add rs rt rd shamt)
  | .addu => some (.addu rs rt rd shamt)
  | .sub => some (.sub rs rt rd shamt)
  | .subu => some (.subu rs rt rd shamt)
  | .and => some (.and rs rt rd shamt)
  | .or => some (.or rs rt rd shamt)
  | .xor => some (.xor rs rt rd shamt)
  | .nor => some (.nor rs rt rd shamt)
  | .slt => some (.slt rs rt rd shamt)
  | .sltu => some (.sltu rs rt rd shamt)
  | _ => none

/-- The typed instruction of an I-format mnemonic and its fields; `none` for a mnemonic of another format. -/
def Instr.ofI (m : Mnemonic) (rs rt : Reg) (imm : Imm) : Option Instr :=
  match m with
  | .bltz => some (.bltz rs imm)
  | .bgez => some (.bgez rs imm)
  | .bltzal => some (.bltzal rs imm)
  | .bgezal => some (.bgezal rs imm)
  | .beq => some (.beq rs rt imm)
  | .bne => some (.bne rs rt imm)
  | .blez => some (.blez rs imm)
  | .bgtz => some (.bgtz rs imm)
  | .addi => some (.addi rs rt imm)
  | .addiu => some (.addiu rs rt imm)
  | .slti => some (.slti rs rt imm)
  | .sltiu => some (.sltiu rs rt imm)
  | .andi => some (.andi rs rt imm)
  | .ori => some (.ori rs rt imm)
  | .xori => some (.xori rs rt imm)
  | .lui => some (.lui rs rt imm)
  | .lb => some (.lb rs rt imm)
  | .lh => some (.lh rs rt imm)
  | .lw => some (.lw rs rt imm)
  | .lbu => some (.lbu rs rt imm)
  | .lhu => some (.lhu rs rt imm)
  | .sb => some (.sb rs rt imm)
  | .sh => some (.sh rs rt imm)
  | .sw => some (.sw rs rt imm)
  | _ => none

/-- The typed instruction of a J-format mnemonic and its field; `none` for a mnemonic of another format. -/
def Instr.ofJ (m : Mnemonic) (target : Target) : Option Instr :=
  match m with
  | .j => some (.j target)
  | .jal => some (.jal target)
  | _ => none

/-- The typed instruction of a resolved mnemonic and format. -/
def Instr.ofResolved (m : Mnemonic) (f : Format) : Option Instr :=
  match f with
  | .r rs rt rd shamt _ => Instr.ofR m rs rt rd shamt
  | .i rs rt imm => Instr.ofI m rs rt imm
  | .j target => Instr.ofJ m target

/-- The typed decoder, total on all 2^32 words (40_dispatch.md R100), over the full tables.
RECOGNIZED_SET is applied when the record is assembled, in the meanings (40_dispatch.md R104). -/
def decode (w : Word) : Option Instr :=
  match resolve w with
  | none => none
  | some (m, f) => Instr.ofResolved m f

/-! ### The encoder: the word of a typed instruction, from the field layouts and each row's encoding line -/

/-- The R layout with opcode 0 (30_encoding.md R62). -/
def encodeR (rs rt rd : Reg) (shamt : Shamt) (funct : Funct) : Word := 0x00#6 ++ rs ++ rt ++ rd ++ shamt ++ funct
/-- The I layout (30_encoding.md R63). -/
def encodeI (opc : Opcode) (rs rt : Reg) (imm : Imm) : Word := opc ++ rs ++ rt ++ imm
/-- The J layout (30_encoding.md R64). -/
def encodeJ (opc : Opcode) (target : Target) : Word := opc ++ target

/-- The word of an instruction (41_r_format.md R130 to R155, 42_i_format.md R170 to R193, 43_j_format.md R210, R211). -/
def encode : Instr → Word
  | .nop rs rt rd => encodeR rs rt rd 0#5 0x00#6
  | .sll rs rt rd shamt => encodeR rs rt rd shamt 0x00#6
  | .srl rs rt rd shamt => encodeR rs rt rd shamt 0x02#6
  | .sra rs rt rd shamt => encodeR rs rt rd shamt 0x03#6
  | .sllv rs rt rd shamt => encodeR rs rt rd shamt 0x04#6
  | .srlv rs rt rd shamt => encodeR rs rt rd shamt 0x06#6
  | .srav rs rt rd shamt => encodeR rs rt rd shamt 0x07#6
  | .jr rs rt rd shamt => encodeR rs rt rd shamt 0x08#6
  | .jalr rs rt rd shamt => encodeR rs rt rd shamt 0x09#6
  | .syscall rs rt rd shamt => encodeR rs rt rd shamt 0x0C#6
  | .mfhi rs rt rd shamt => encodeR rs rt rd shamt 0x10#6
  | .mflo rs rt rd shamt => encodeR rs rt rd shamt 0x12#6
  | .mult rs rt rd shamt => encodeR rs rt rd shamt 0x18#6
  | .multu rs rt rd shamt => encodeR rs rt rd shamt 0x19#6
  | .div rs rt rd shamt => encodeR rs rt rd shamt 0x1A#6
  | .divu rs rt rd shamt => encodeR rs rt rd shamt 0x1B#6
  | .add rs rt rd shamt => encodeR rs rt rd shamt 0x20#6
  | .addu rs rt rd shamt => encodeR rs rt rd shamt 0x21#6
  | .sub rs rt rd shamt => encodeR rs rt rd shamt 0x22#6
  | .subu rs rt rd shamt => encodeR rs rt rd shamt 0x23#6
  | .and rs rt rd shamt => encodeR rs rt rd shamt 0x24#6
  | .or rs rt rd shamt => encodeR rs rt rd shamt 0x25#6
  | .xor rs rt rd shamt => encodeR rs rt rd shamt 0x26#6
  | .nor rs rt rd shamt => encodeR rs rt rd shamt 0x27#6
  | .slt rs rt rd shamt => encodeR rs rt rd shamt 0x2A#6
  | .sltu rs rt rd shamt => encodeR rs rt rd shamt 0x2B#6
  | .bltz rs imm => encodeI 0x01#6 rs 0x00#5 imm
  | .bgez rs imm => encodeI 0x01#6 rs 0x01#5 imm
  | .bltzal rs imm => encodeI 0x01#6 rs 0x10#5 imm
  | .bgezal rs imm => encodeI 0x01#6 rs 0x11#5 imm
  | .beq rs rt imm => encodeI 0x04#6 rs rt imm
  | .bne rs rt imm => encodeI 0x05#6 rs rt imm
  | .blez rs imm => encodeI 0x06#6 rs 0x00#5 imm
  | .bgtz rs imm => encodeI 0x07#6 rs 0x00#5 imm
  | .addi rs rt imm => encodeI 0x08#6 rs rt imm
  | .addiu rs rt imm => encodeI 0x09#6 rs rt imm
  | .slti rs rt imm => encodeI 0x0A#6 rs rt imm
  | .sltiu rs rt imm => encodeI 0x0B#6 rs rt imm
  | .andi rs rt imm => encodeI 0x0C#6 rs rt imm
  | .ori rs rt imm => encodeI 0x0D#6 rs rt imm
  | .xori rs rt imm => encodeI 0x0E#6 rs rt imm
  | .lui rs rt imm => encodeI 0x0F#6 rs rt imm
  | .lb rs rt imm => encodeI 0x20#6 rs rt imm
  | .lh rs rt imm => encodeI 0x21#6 rs rt imm
  | .lw rs rt imm => encodeI 0x23#6 rs rt imm
  | .lbu rs rt imm => encodeI 0x24#6 rs rt imm
  | .lhu rs rt imm => encodeI 0x25#6 rs rt imm
  | .sb rs rt imm => encodeI 0x28#6 rs rt imm
  | .sh rs rt imm => encodeI 0x29#6 rs rt imm
  | .sw rs rt imm => encodeI 0x2B#6 rs rt imm
  | .j target => encodeJ 0x02#6 target
  | .jal target => encodeJ 0x03#6 target

/-! ### The mask and match table (30_encoding.md R79, opcode_table.json) -/

/-- One row: a word belongs to it when `word &&& mask = match` and, where the row says so, `word[10:6] ≠ 0`. -/
structure Row where
  mnem : Mnemonic
  mask : Word
  pattern : Word
  needsShift : Bool
deriving DecidableEq, Repr

/-- The mask and match test of a row, without its condition. -/
def Row.matchesBits (r : Row) (w : Word) : Bool := w &&& r.mask == r.pattern
/-- The whole test of a row: mask, match and condition. -/
def Row.matches (r : Row) (w : Word) : Bool := r.matchesBits w && (!r.needsShift || shamtOf w != 0#5)

/-- The R rows of opcode_table.json, in table order. -/
def rowsR : List Row :=
  [⟨.nop, 0xFC0007FF#32, 0x00000000#32, false⟩,
   ⟨.sll, 0xFC00003F#32, 0x00000000#32, true⟩,
   ⟨.srl, 0xFC00003F#32, 0x00000002#32, false⟩,
   ⟨.sra, 0xFC00003F#32, 0x00000003#32, false⟩,
   ⟨.sllv, 0xFC00003F#32, 0x00000004#32, false⟩,
   ⟨.srlv, 0xFC00003F#32, 0x00000006#32, false⟩,
   ⟨.srav, 0xFC00003F#32, 0x00000007#32, false⟩,
   ⟨.jr, 0xFC00003F#32, 0x00000008#32, false⟩,
   ⟨.jalr, 0xFC00003F#32, 0x00000009#32, false⟩,
   ⟨.syscall, 0xFC00003F#32, 0x0000000C#32, false⟩,
   ⟨.mfhi, 0xFC00003F#32, 0x00000010#32, false⟩,
   ⟨.mflo, 0xFC00003F#32, 0x00000012#32, false⟩,
   ⟨.mult, 0xFC00003F#32, 0x00000018#32, false⟩] ++
  [⟨.multu, 0xFC00003F#32, 0x00000019#32, false⟩,
   ⟨.div, 0xFC00003F#32, 0x0000001A#32, false⟩,
   ⟨.divu, 0xFC00003F#32, 0x0000001B#32, false⟩,
   ⟨.add, 0xFC00003F#32, 0x00000020#32, false⟩,
   ⟨.addu, 0xFC00003F#32, 0x00000021#32, false⟩,
   ⟨.sub, 0xFC00003F#32, 0x00000022#32, false⟩,
   ⟨.subu, 0xFC00003F#32, 0x00000023#32, false⟩,
   ⟨.and, 0xFC00003F#32, 0x00000024#32, false⟩,
   ⟨.or, 0xFC00003F#32, 0x00000025#32, false⟩,
   ⟨.xor, 0xFC00003F#32, 0x00000026#32, false⟩,
   ⟨.nor, 0xFC00003F#32, 0x00000027#32, false⟩,
   ⟨.slt, 0xFC00003F#32, 0x0000002A#32, false⟩,
   ⟨.sltu, 0xFC00003F#32, 0x0000002B#32, false⟩]

/-- The I rows of opcode_table.json, in table order. -/
def rowsI : List Row :=
  [⟨.bltz, 0xFC1F0000#32, 0x04000000#32, false⟩,
   ⟨.bgez, 0xFC1F0000#32, 0x04010000#32, false⟩,
   ⟨.bltzal, 0xFC1F0000#32, 0x04100000#32, false⟩,
   ⟨.bgezal, 0xFC1F0000#32, 0x04110000#32, false⟩,
   ⟨.beq, 0xFC000000#32, 0x10000000#32, false⟩,
   ⟨.bne, 0xFC000000#32, 0x14000000#32, false⟩,
   ⟨.blez, 0xFC1F0000#32, 0x18000000#32, false⟩,
   ⟨.bgtz, 0xFC1F0000#32, 0x1C000000#32, false⟩,
   ⟨.addi, 0xFC000000#32, 0x20000000#32, false⟩,
   ⟨.addiu, 0xFC000000#32, 0x24000000#32, false⟩,
   ⟨.slti, 0xFC000000#32, 0x28000000#32, false⟩,
   ⟨.sltiu, 0xFC000000#32, 0x2C000000#32, false⟩,
   ⟨.andi, 0xFC000000#32, 0x30000000#32, false⟩] ++
  [⟨.ori, 0xFC000000#32, 0x34000000#32, false⟩,
   ⟨.xori, 0xFC000000#32, 0x38000000#32, false⟩,
   ⟨.lui, 0xFC000000#32, 0x3C000000#32, false⟩,
   ⟨.lb, 0xFC000000#32, 0x80000000#32, false⟩,
   ⟨.lh, 0xFC000000#32, 0x84000000#32, false⟩,
   ⟨.lw, 0xFC000000#32, 0x8C000000#32, false⟩,
   ⟨.lbu, 0xFC000000#32, 0x90000000#32, false⟩,
   ⟨.lhu, 0xFC000000#32, 0x94000000#32, false⟩,
   ⟨.sb, 0xFC000000#32, 0xA0000000#32, false⟩,
   ⟨.sh, 0xFC000000#32, 0xA4000000#32, false⟩,
   ⟨.sw, 0xFC000000#32, 0xAC000000#32, false⟩]

/-- The J rows of opcode_table.json, in table order. -/
def rowsJ : List Row :=
  [⟨.j, 0xFC000000#32, 0x08000000#32, false⟩,
   ⟨.jal, 0xFC000000#32, 0x0C000000#32, false⟩]

/-- All 52 rows, in table order: `nop` before `sll` (30_encoding.md R79). -/
def rows : List Row := rowsR ++ rowsI ++ rowsJ

/-- Table-driven resolution: the mnemonic of the first row in table order that the word belongs to. -/
def rowLookup (w : Word) : Option Mnemonic := (rows.find? fun r => r.matches w).map Row.mnem
/-- The same in table order without the condition of `sll` (30_encoding.md R79, "without using the condition"). -/
def rowLookupInOrder (w : Word) : Option Mnemonic := (rows.find? fun r => r.matchesBits w).map Row.mnem

/-! ### Words from bytes, and words as the opcode table numbers them -/

/-- WORD_SOURCE_BYTE_ORDER, a parameter of whoever builds words from bytes, outside the block (20_memory.md R42). -/
inductive ByteOrder where
  | big
  | little
deriving DecidableEq, Repr

/-- The word a supplier builds from four bytes, `b0` at the lowest address (20_memory.md R42; the order is
OPEN). Which byte lands where under each name is the model's choice: DESIGN CHOICE, log entry 14. -/
def wordOfBytes (order : ByteOrder) (b0 b1 b2 b3 : Byte) : Word :=
  match order with
  | .big => b0 ++ b1 ++ b2 ++ b3
  | .little => b3 ++ b2 ++ b1 ++ b0

/-- The word whose bits are `w`, every bit from `nbits` on being 0. The block takes whole words (20_memory.md R41), so no
byte order enters. -/
def tableWord (nbits w : Nat) : Word := BitVec.ofNat 32 (w % 2 ^ nbits)

/-- The instruction the decoder reads from a word numbered as opcode_table.json numbers it (30_encoding.md R60). -/
def decodeTableWord (nbits w : Nat) : Option Instr := decode (tableWord nbits w)

end Sys2Proof
end

