-- ==== Sys2Proof/Machine/Ports.lean ====
section
/-! DEFINITION. The output ports as one view of the decoded result (10_state.md R27, R28). -/

namespace Sys2Proof

/-- The output ports and their widths (10_state.md R27). -/
structure Ports where
  ok : BitVec 1
  fmt : BitVec 2
  mnem : BitVec 6
  raw : Word
  rs : Reg
  rt : Reg
  rd : Reg
  shamt : Shamt
  funct : Funct
  imm : Imm
  target : Target
deriving DecidableEq, Repr

/-- The 6-bit port code of a mnemonic (10_state.md R28). -/
def Mnemonic.code : Mnemonic → BitVec 6
  | .nop => 0#6
  | .sll => 1#6
  | .srl => 2#6
  | .sra => 3#6
  | .sllv => 4#6
  | .srlv => 5#6
  | .srav => 6#6
  | .jr => 7#6
  | .jalr => 8#6
  | .syscall => 9#6
  | .mfhi => 10#6
  | .mflo => 11#6
  | .mult => 12#6
  | .multu => 13#6
  | .div => 14#6
  | .divu => 15#6
  | .add => 16#6
  | .addu => 17#6
  | .sub => 18#6
  | .subu => 19#6
  | .and => 20#6
  | .or => 21#6
  | .xor => 22#6
  | .nor => 23#6
  | .slt => 24#6
  | .sltu => 25#6
  | .bltz => 26#6
  | .bgez => 27#6
  | .bltzal => 28#6
  | .bgezal => 29#6
  | .beq => 30#6
  | .bne => 31#6
  | .blez => 32#6
  | .bgtz => 33#6
  | .addi => 34#6
  | .addiu => 35#6
  | .slti => 36#6
  | .sltiu => 37#6
  | .andi => 38#6
  | .ori => 39#6
  | .xori => 40#6
  | .lui => 41#6
  | .lb => 42#6
  | .lh => 43#6
  | .lw => 44#6
  | .lbu => 45#6
  | .lhu => 46#6
  | .sb => 47#6
  | .sh => 48#6
  | .sw => 49#6
  | .j => 50#6
  | .jal => 51#6

/-- All outputs 0: the ports when a word is unrecognized (10_state.md R27; no statement rests on these zeros, log entry 12). -/
def Ports.zero : Ports :=
  { ok := 0, fmt := 0, mnem := 0, raw := 0, rs := 0, rt := 0, rd := 0, shamt := 0, funct := 0, imm := 0, target := 0 }

/-- The ports of a record: the fields of its own format, 0 for a field its format lacks (10_state.md R27). -/
def recordPorts (I : Instruction) : Ports :=
  match I.fmt with
  | .r rs rt rd shamt funct =>
    { Ports.zero with ok := 1, fmt := 0#2, mnem := I.mnem.code, raw := I.raw, rs, rt, rd, shamt, funct }
  | .i rs rt imm =>
    { Ports.zero with ok := 1, fmt := 1#2, mnem := I.mnem.code, raw := I.raw, rs, rt, imm }
  | .j target =>
    { Ports.zero with ok := 1, fmt := 2#2, mnem := I.mnem.code, raw := I.raw, target }

/-- The ports of a result (10_state.md R27): `ports(word)` is `resultPorts (decodeRecord c word)`. -/
def resultPorts (result : Option Instruction) : Ports :=
  match result with
  | none => Ports.zero
  | some I => recordPorts I

end Sys2Proof
end

