-- ==== Sys2Proof/Machine/Render.lean ====
section
/-! DEFINITION. The renderer, a reference observation function outside the block (44_renderer.md). No output of the block
depends on it. -/

namespace Sys2Proof

/-- The lowercase spelling of a mnemonic (44_renderer.md R229, 10_state.md R28). -/
def Mnemonic.text : Mnemonic → String
  | .nop => "nop"
  | .sll => "sll"
  | .srl => "srl"
  | .sra => "sra"
  | .sllv => "sllv"
  | .srlv => "srlv"
  | .srav => "srav"
  | .jr => "jr"
  | .jalr => "jalr"
  | .syscall => "syscall"
  | .mfhi => "mfhi"
  | .mflo => "mflo"
  | .mult => "mult"
  | .multu => "multu"
  | .div => "div"
  | .divu => "divu"
  | .add => "add"
  | .addu => "addu"
  | .sub => "sub"
  | .subu => "subu"
  | .and => "and"
  | .or => "or"
  | .xor => "xor"
  | .nor => "nor"
  | .slt => "slt"
  | .sltu => "sltu"
  | .bltz => "bltz"
  | .bgez => "bgez"
  | .bltzal => "bltzal"
  | .bgezal => "bgezal"
  | .beq => "beq"
  | .bne => "bne"
  | .blez => "blez"
  | .bgtz => "bgtz"
  | .addi => "addi"
  | .addiu => "addiu"
  | .slti => "slti"
  | .sltiu => "sltiu"
  | .andi => "andi"
  | .ori => "ori"
  | .xori => "xori"
  | .lui => "lui"
  | .lb => "lb"
  | .lh => "lh"
  | .lw => "lw"
  | .lbu => "lbu"
  | .lhu => "lhu"
  | .sb => "sb"
  | .sh => "sh"
  | .sw => "sw"
  | .j => "j"
  | .jal => "jal"

/-- The digits of `n` in a base, most significant first, with no leading zeros (one digit 0 for 0). `fuel` bounds their number. -/
def digitsOf (base : Nat) : Nat → Nat → List Nat
  | 0, _ => []
  | fuel + 1, n => if n < base then [n] else digitsOf base fuel (n / base) ++ [n % base]

/-- The digits of a field's unsigned value; a field of `width` bits has at most `width` digits in a base from 2 on. -/
def fieldDigits (base : Nat) (v : BitVec width) : List Nat := digitsOf base (width + 1) v.toNat

/-- `hex(v)`: lowercase hexadecimal, no prefix, no leading zeros (44_renderer.md R223, R228). -/
def hexToken (v : BitVec width) : String := String.ofList ((fieldDigits 16 v).map Nat.digitChar)
/-- `dec(v)`: decimal, no leading zeros (44_renderer.md R222, R228). -/
def decToken (v : BitVec width) : String := String.ofList ((fieldDigits 10 v).map Nat.digitChar)
/-- A register token: `$` and the index in decimal (44_renderer.md R222). -/
def regToken (r : Reg) : String := "$" ++ decToken r

/-- `render` (44_renderer.md R228), with RENDER_VERBOSE as its first argument (R225). -/
def render (verbose : Bool) (I : Instruction) : String :=
  match I.fmt with
  | .r rs rt rd shamt funct =>
    I.mnem.text ++ " " ++ regToken rs ++ " " ++ regToken rt ++ " " ++ regToken rd ++
      (if verbose then " " ++ hexToken shamt ++ " " ++ hexToken funct else "")
  | .i rs rt imm => I.mnem.text ++ " " ++ regToken rs ++ " " ++ regToken rt ++ " " ++ hexToken imm
  | .j target => I.mnem.text ++ " " ++ hexToken target

end Sys2Proof
end

