-- ==== Sys2Proof/Machine/State.lean ====
section
/-! DEFINITION. The state, the reasons a step could stop, and the state at power-up.
The block has no state of its own (10_state.md R20). State holds the input port, the result now on the outputs, the
build-time parameters, and, for the model only, what the supplier presents next and what the caller has received. -/

namespace Sys2Proof.Machine

/-- Nothing raises a fault: the block has no trap, fault or exception (60_exceptions.md R242, R244), and a model must not
add a second failure kind (40_dispatch.md R111). Safe: the type has no value. -/
inductive Fault where
deriving DecidableEq, Repr

/-- Why a step has no meaning. -/
inductive Refusal where
  /-- The host's name for an arm of `exec` without a meaning. No arm raises it: all 52 instructions have one. Safe. -/
  | notModelled (mnemonic : String)
deriving DecidableEq, Repr

/-- The state of the decoder and of the two parties at its ports. -/
structure State where
  /-- The build-time parameters RECOGNIZED_SET and RENDER_VERBOSE (10_state.md R24). -/
  cfg : Config
  /-- The input port (10_state.md R27). -/
  word : Word
  /-- The result on the outputs: a record, or `none` for "unrecognized" (40_dispatch.md R108). -/
  result : Option Instruction
  /-- The words the external supplier presents next, first to come first (DESIGN CHOICE, log entry 1). -/
  supply : List Word
  /-- The results the caller has received, oldest first (DESIGN CHOICE, log entry 5). -/
  emitted : List (Option Instruction)
deriving DecidableEq, Repr

/-- Power-up: the default parameters (00_scope.md R7), the word 0 on the input (DESIGN CHOICE, log entry 3), and the
outputs that word has, since outputs are valid at all times (10_state.md R29, 70_reset_and_hazards.md R260). -/
def State.reset : State :=
  { cfg := Config.default
    word := 0#32
    result := decodeRecord Config.default 0#32
    supply := []
    emitted := [] }

end Sys2Proof.Machine
end

