-- ==== Sys2Proof/Machine/Ops.lean ====
section
/-! DEFINITION. The shared operations over the state: presenting a word, concluding an evaluation, emitting a record.
There is no operation over registers or memory (10_state.md R20, 20_memory.md R40), none that takes an exception and none
that returns from one (60_exceptions.md R244, R245): the block has none of these. -/

namespace Sys2Proof.Machine

/-- The supplier puts its next word on the input (10_state.md R23, R27). With nothing more to present it goes on driving
the word that is there (DESIGN CHOICE, log entry 2). -/
def State.present (s : State) : State :=
  match s.supply with
  | [] => s
  | w :: rest => { s with word := w, supply := rest }

/-- The word that the next evaluation decodes. -/
def State.nextWord (s : State) : Word := s.present.word

/-- One evaluation ends: the result stands on the outputs, and the caller receives it (40_dispatch.md R108, 10_state.md R26). -/
def State.conclude (result : Option Instruction) (s : State) : State :=
  { s with result := result, emitted := s.emitted ++ [result] }

/-- Assembly (40_dispatch.md R104): the record of the word on the input, or `none` when the mnemonic is outside
RECOGNIZED_SET (30_encoding.md R73). -/
def State.assemble (m : Mnemonic) (f : Format) (s : State) : Option Instruction :=
  if s.cfg.recognizes m then some { raw := s.word, mnem := m, fmt := f } else none

/-- What every instruction does: its record is assembled and put on the outputs (40_dispatch.md R104, R112). -/
def State.emit (m : Mnemonic) (f : Format) (s : State) : Host.Outcome State Fault Refusal :=
  .next (s.conclude (s.assemble m f))

/-- The output ports (10_state.md R27). -/
def State.ports (s : State) : Ports := resultPorts s.result

/-- The line the renderer shows for the result; "unrecognized" has no rendering (44_renderer.md R220, R231). -/
def State.line (s : State) : Option String := s.result.map (render s.cfg.renderVerbose)

end Sys2Proof.Machine
end

