-- ==== Sys2Proof/Machine/Operands.lean ====
section
/-! DEFINITION. The operand forms: which raw fields an instruction puts into its record (30_encoding.md R62 to R65).
A field is copied as it is: never read as a register's value, extended, shifted or added (10_state.md R22, 30_encoding.md R65). -/

namespace Sys2Proof.Machine

/-- The R form: all five fields, whether or not the mnemonic uses them (41_r_format.md R129). -/
def operandsR (rs rt rd : Reg) (shamt : Shamt) (funct : Funct) : Format := .r rs rt rd shamt funct

/-- The form of `nop`: shamt and funct are 0 (41_r_format.md R130). -/
def operandsNop (rs rt rd : Reg) : Format := operandsR rs rt rd 0#5 0x00#6

/-- The I form: rt is kept even where it selects the mnemonic (42_i_format.md R169). -/
def operandsI (rs rt : Reg) (imm : Imm) : Format := .i rs rt imm

/-- The J form (43_j_format.md R209). -/
def operandsJ (target : Target) : Format := .j target

end Sys2Proof.Machine
end

