-- ==== Sys2Proof/Machine/IFormat.lean ====
section
/-! DEFINITION. The meanings of the 24 I-format instructions (42_i_format.md R170 to R193). Each drives the outputs with its own record and nothing else (40_dispatch.md R112 to R114). -/

namespace Sys2Proof.Machine

/-- `bltz` (42_i_format.md R170). -/
def execBltz (rs : Reg) (imm : Imm) (s : State) : Host.Outcome State Fault Refusal :=
  s.emit .bltz (operandsI rs 0x00#5 imm)

/-- `bgez` (42_i_format.md R171). -/
def execBgez (rs : Reg) (imm : Imm) (s : State) : Host.Outcome State Fault Refusal :=
  s.emit .bgez (operandsI rs 0x01#5 imm)

/-- `bltzal` (42_i_format.md R172). -/
def execBltzal (rs : Reg) (imm : Imm) (s : State) : Host.Outcome State Fault Refusal :=
  s.emit .bltzal (operandsI rs 0x10#5 imm)

/-- `bgezal` (42_i_format.md R173). -/
def execBgezal (rs : Reg) (imm : Imm) (s : State) : Host.Outcome State Fault Refusal :=
  s.emit .bgezal (operandsI rs 0x11#5 imm)

/-- `beq` (42_i_format.md R174). -/
def execBeq (rs rt : Reg) (imm : Imm) (s : State) : Host.Outcome State Fault Refusal :=
  s.emit .beq (operandsI rs rt imm)

/-- `bne` (42_i_format.md R175). -/
def execBne (rs rt : Reg) (imm : Imm) (s : State) : Host.Outcome State Fault Refusal :=
  s.emit .bne (operandsI rs rt imm)

/-- `blez` (42_i_format.md R176). -/
def execBlez (rs : Reg) (imm : Imm) (s : State) : Host.Outcome State Fault Refusal :=
  s.emit .blez (operandsI rs 0x00#5 imm)

/-- `bgtz` (42_i_format.md R177). -/
def execBgtz (rs : Reg) (imm : Imm) (s : State) : Host.Outcome State Fault Refusal :=
  s.emit .bgtz (operandsI rs 0x00#5 imm)

/-- `addi` (42_i_format.md R178). -/
def execAddi (rs rt : Reg) (imm : Imm) (s : State) : Host.Outcome State Fault Refusal :=
  s.emit .addi (operandsI rs rt imm)

/-- `addiu` (42_i_format.md R179). -/
def execAddiu (rs rt : Reg) (imm : Imm) (s : State) : Host.Outcome State Fault Refusal :=
  s.emit .addiu (operandsI rs rt imm)

/-- `slti` (42_i_format.md R180). -/
def execSlti (rs rt : Reg) (imm : Imm) (s : State) : Host.Outcome State Fault Refusal :=
  s.emit .slti (operandsI rs rt imm)

/-- `sltiu` (42_i_format.md R181). -/
def execSltiu (rs rt : Reg) (imm : Imm) (s : State) : Host.Outcome State Fault Refusal :=
  s.emit .sltiu (operandsI rs rt imm)

/-- `andi` (42_i_format.md R182). -/
def execAndi (rs rt : Reg) (imm : Imm) (s : State) : Host.Outcome State Fault Refusal :=
  s.emit .andi (operandsI rs rt imm)

/-- `ori` (42_i_format.md R183). -/
def execOri (rs rt : Reg) (imm : Imm) (s : State) : Host.Outcome State Fault Refusal :=
  s.emit .ori (operandsI rs rt imm)

/-- `xori` (42_i_format.md R184). -/
def execXori (rs rt : Reg) (imm : Imm) (s : State) : Host.Outcome State Fault Refusal :=
  s.emit .xori (operandsI rs rt imm)

/-- `lui` (42_i_format.md R185). -/
def execLui (rs rt : Reg) (imm : Imm) (s : State) : Host.Outcome State Fault Refusal :=
  s.emit .lui (operandsI rs rt imm)

/-- `lb` (42_i_format.md R186). -/
def execLb (rs rt : Reg) (imm : Imm) (s : State) : Host.Outcome State Fault Refusal :=
  s.emit .lb (operandsI rs rt imm)

/-- `lh` (42_i_format.md R187). -/
def execLh (rs rt : Reg) (imm : Imm) (s : State) : Host.Outcome State Fault Refusal :=
  s.emit .lh (operandsI rs rt imm)

/-- `lw` (42_i_format.md R188). -/
def execLw (rs rt : Reg) (imm : Imm) (s : State) : Host.Outcome State Fault Refusal :=
  s.emit .lw (operandsI rs rt imm)

/-- `lbu` (42_i_format.md R189). -/
def execLbu (rs rt : Reg) (imm : Imm) (s : State) : Host.Outcome State Fault Refusal :=
  s.emit .lbu (operandsI rs rt imm)

/-- `lhu` (42_i_format.md R190). -/
def execLhu (rs rt : Reg) (imm : Imm) (s : State) : Host.Outcome State Fault Refusal :=
  s.emit .lhu (operandsI rs rt imm)

/-- `sb` (42_i_format.md R191). -/
def execSb (rs rt : Reg) (imm : Imm) (s : State) : Host.Outcome State Fault Refusal :=
  s.emit .sb (operandsI rs rt imm)

/-- `sh` (42_i_format.md R192). -/
def execSh (rs rt : Reg) (imm : Imm) (s : State) : Host.Outcome State Fault Refusal :=
  s.emit .sh (operandsI rs rt imm)

/-- `sw` (42_i_format.md R193). -/
def execSw (rs rt : Reg) (imm : Imm) (s : State) : Host.Outcome State Fault Refusal :=
  s.emit .sw (operandsI rs rt imm)

end Sys2Proof.Machine
end

