-- ==== Sys2Proof/Machine/JFormat.lean ====
section
/-! DEFINITION. The meanings of the 2 J-format instructions (43_j_format.md R210, R211). Each drives the outputs with its own record and nothing else (40_dispatch.md R112 to R114). -/

namespace Sys2Proof.Machine

/-- `j` (43_j_format.md R210). -/
def execJ (target : Target) (s : State) : Host.Outcome State Fault Refusal :=
  s.emit .j (operandsJ target)

/-- `jal` (43_j_format.md R211). -/
def execJal (target : Target) (s : State) : Host.Outcome State Fault Refusal :=
  s.emit .jal (operandsJ target)

end Sys2Proof.Machine
end

