-- ==== Sys2Proof/Machine/RFormat.lean ====
section
/-! DEFINITION. The meanings of the 26 R-format instructions (41_r_format.md R130 to R155). Each drives the outputs with its own record and nothing else (40_dispatch.md R112 to R114). -/

namespace Sys2Proof.Machine

/-- `nop` (41_r_format.md R130). -/
def execNop (rs rt rd : Reg) (s : State) : Host.Outcome State Fault Refusal :=
  s.emit .nop (operandsNop rs rt rd)

/-- `sll` (41_r_format.md R131). -/
def execSll (rs rt rd : Reg) (shamt : Shamt) (s : State) : Host.Outcome State Fault Refusal :=
  s.emit .sll (operandsR rs rt rd shamt 0x00#6)

/-- `srl` (41_r_format.md R132). -/
def execSrl (rs rt rd : Reg) (shamt : Shamt) (s : State) : Host.Outcome State Fault Refusal :=
  s.emit .srl (operandsR rs rt rd shamt 0x02#6)

/-- `sra` (41_r_format.md R133). -/
def execSra (rs rt rd : Reg) (shamt : Shamt) (s : State) : Host.Outcome State Fault Refusal :=
  s.emit .sra (operandsR rs rt rd shamt 0x03#6)

/-- `sllv` (41_r_format.md R134). -/
def execSllv (rs rt rd : Reg) (shamt : Shamt) (s : State) : Host.Outcome State Fault Refusal :=
  s.emit .sllv (operandsR rs rt rd shamt 0x04#6)

/-- `srlv` (41_r_format.md R135). -/
def execSrlv (rs rt rd : Reg) (shamt : Shamt) (s : State) : Host.Outcome State Fault Refusal :=
  s.emit .srlv (operandsR rs rt rd shamt 0x06#6)

/-- `srav` (41_r_format.md R136). -/
def execSrav (rs rt rd : Reg) (shamt : Shamt) (s : State) : Host.Outcome State Fault Refusal :=
  s.emit .srav (operandsR rs rt rd shamt 0x07#6)

/-- `jr` (41_r_format.md R137). -/
def execJr (rs rt rd : Reg) (shamt : Shamt) (s : State) : Host.Outcome State Fault Refusal :=
  s.emit .jr (operandsR rs rt rd shamt 0x08#6)

/-- `jalr` (41_r_format.md R138). -/
def execJalr (rs rt rd : Reg) (shamt : Shamt) (s : State) : Host.Outcome State Fault Refusal :=
  s.emit .jalr (operandsR rs rt rd shamt 0x09#6)

/-- `syscall` (41_r_format.md R139). -/
def execSyscall (rs rt rd : Reg) (shamt : Shamt) (s : State) : Host.Outcome State Fault Refusal :=
  s.emit .syscall (operandsR rs rt rd shamt 0x0C#6)

/-- `mfhi` (41_r_format.md R140). -/
def execMfhi (rs rt rd : Reg) (shamt : Shamt) (s : State) : Host.Outcome State Fault Refusal :=
  s.emit .mfhi (operandsR rs rt rd shamt 0x10#6)

/-- `mflo` (41_r_format.md R141). -/
def execMflo (rs rt rd : Reg) (shamt : Shamt) (s : State) : Host.Outcome State Fault Refusal :=
  s.emit .mflo (operandsR rs rt rd shamt 0x12#6)

/-- `mult` (41_r_format.md R142). -/
def execMult (rs rt rd : Reg) (shamt : Shamt) (s : State) : Host.Outcome State Fault Refusal :=
  s.emit .mult (operandsR rs rt rd shamt 0x18#6)

/-- `multu` (41_r_format.md R143). -/
def execMultu (rs rt rd : Reg) (shamt : Shamt) (s : State) : Host.Outcome State Fault Refusal :=
  s.emit .multu (operandsR rs rt rd shamt 0x19#6)

/-- `div` (41_r_format.md R144). -/
def execDiv (rs rt rd : Reg) (shamt : Shamt) (s : State) : Host.Outcome State Fault Refusal :=
  s.emit .div (operandsR rs rt rd shamt 0x1A#6)

/-- `divu` (41_r_format.md R145). -/
def execDivu (rs rt rd : Reg) (shamt : Shamt) (s : State) : Host.Outcome State Fault Refusal :=
  s.emit .divu (operandsR rs rt rd shamt 0x1B#6)

/-- `add` (41_r_format.md R146). -/
def execAdd (rs rt rd : Reg) (shamt : Shamt) (s : State) : Host.Outcome State Fault Refusal :=
  s.emit .add (operandsR rs rt rd shamt 0x20#6)

/-- `addu` (41_r_format.md R147). -/
def execAddu (rs rt rd : Reg) (shamt : Shamt) (s : State) : Host.Outcome State Fault Refusal :=
  s.emit .addu (operandsR rs rt rd shamt 0x21#6)

/-- `sub` (41_r_format.md R148). -/
def execSub (rs rt rd : Reg) (shamt : Shamt) (s : State) : Host.Outcome State Fault Refusal :=
  s.emit .sub (operandsR rs rt rd shamt 0x22#6)

/-- `subu` (41_r_format.md R149). -/
def execSubu (rs rt rd : Reg) (shamt : Shamt) (s : State) : Host.Outcome State Fault Refusal :=
  s.emit .subu (operandsR rs rt rd shamt 0x23#6)

/-- `and` (41_r_format.md R150). -/
def execAnd (rs rt rd : Reg) (shamt : Shamt) (s : State) : Host.Outcome State Fault Refusal :=
  s.emit .and (operandsR rs rt rd shamt 0x24#6)

/-- `or` (41_r_format.md R151). -/
def execOr (rs rt rd : Reg) (shamt : Shamt) (s : State) : Host.Outcome State Fault Refusal :=
  s.emit .or (operandsR rs rt rd shamt 0x25#6)

/-- `xor` (41_r_format.md R152). -/
def execXor (rs rt rd : Reg) (shamt : Shamt) (s : State) : Host.Outcome State Fault Refusal :=
  s.emit .xor (operandsR rs rt rd shamt 0x26#6)

/-- `nor` (41_r_format.md R153). -/
def execNor (rs rt rd : Reg) (shamt : Shamt) (s : State) : Host.Outcome State Fault Refusal :=
  s.emit .nor (operandsR rs rt rd shamt 0x27#6)

/-- `slt` (41_r_format.md R154). -/
def execSlt (rs rt rd : Reg) (shamt : Shamt) (s : State) : Host.Outcome State Fault Refusal :=
  s.emit .slt (operandsR rs rt rd shamt 0x2A#6)

/-- `sltu` (41_r_format.md R155). -/
def execSltu (rs rt rd : Reg) (shamt : Shamt) (s : State) : Host.Outcome State Fault Refusal :=
  s.emit .sltu (operandsR rs rt rd shamt 0x2B#6)

end Sys2Proof.Machine
end

