-- ==== Sys2Proof/Machine/Step.lean ====
section
/-! DEFINITION. One step: the supplier's next word comes onto the input and the block evaluates it. -/

namespace Sys2Proof.Machine

/-- One evaluation (40_dispatch.md R108). An unrecognized word gives `none` and the machine goes on (60_exceptions.md R242). -/
def step (s : State) : Host.Outcome State Fault Refusal :=
  match decode s.present.word with
  | some i => exec i s.present
  | none => .next (s.present.conclude none)

/-- The state with a word, numbered as opcode_table.json numbers it, as the one the supplier presents next, so that the very
next step evaluates it. Words come from outside the block (00_scope.md R6; log entry 15). -/
def State.withFetchWord (s : State) (nbits w : Nat) : State :=
  { s with supply := tableWord nbits w :: s.supply }

end Sys2Proof.Machine
end

