-- ==== Sys2Proof/Machine/Flags.lean ====
section
/-! DEFINITION. The flags of the block: none. Every instruction's rule says "Flags written: none" (10_state.md R20), so
there is no flag to compute and State has no field for one. -/

namespace Sys2Proof.Machine

/-- The flags or condition codes the block has (10_state.md R20): the type has no value. -/
inductive Flag where
deriving DecidableEq, Repr

end Sys2Proof.Machine
end

