-- ==== Sys2Proof/Machine/Latency.lean ====
section
/-! DEFINITION. Registered outputs (70_reset_and_hazards.md R266): an implementation may put DECODE_LATENCY registers
between the decoder and its outputs. The block itself is combinational, so this stands beside the machine, and the number
of registers is an argument (00_scope.md R7, OPEN). What the registers hold before the first word reaches them is unknown
(92_eei_decisions.md D10), so it is an argument too. -/

namespace Sys2Proof

/-- One clock cycle of the output registers `pipe`, oldest first, while `w` is on the input: the ports seen in this cycle
and the registers after it. With no registers the outputs are combinational. -/
def registeredCycle (c : Config) (pipe : List Ports) (w : Word) : Ports × List Ports :=
  match pipe with
  | [] => (resultPorts (decodeRecord c w), [])
  | p :: rest => (p, rest ++ [resultPorts (decodeRecord c w)])

/-- The ports seen in successive cycles while the words `ws` are on the input one after another. DECODE_LATENCY is the
length of `pipe`. -/
def registeredOutputs (c : Config) : List Ports → List Word → List Ports
  | _, [] => []
  | pipe, w :: ws =>
    (registeredCycle c pipe w).1 :: registeredOutputs c (registeredCycle c pipe w).2 ws

end Sys2Proof
end

