-- ==== Sys2Proof/Safety.lean ====
section
/-! DEFINITION. The terms claims are stated in: what a consistent record is, the machine's invariant, what it means that an
instruction completes, and what a row of the table promises about a step. -/

namespace Sys2Proof

/-- A record that the block could have produced: its mnemonic and format are those its raw word has (10_state.md R25,
"always mutually consistent with each other and derivable from `raw`"). -/
abbrev Instruction.Consistent (c : Config) (I : Instruction) : Prop := decodeRecord c I.raw = some I

namespace Machine

/-- The machine's invariant: the result on the outputs is the one of the word on the input (10_state.md R29,
70_reset_and_hazards.md R260), and every record the caller has received is consistent (10_state.md R25, R26). -/
abbrev State.Inv (s : State) : Prop :=
  s.result = decodeRecord s.cfg s.word ∧ ∀ r ∈ s.emitted, ∀ I ∈ r, I.Consistent s.cfg

/-- What is seen of a completed instruction with mnemonic `m` and format `f`, from `s` to `t`: its own result on the outputs
(a record of the word on the input, or "unrecognized" when `m` is outside RECOGNIZED_SET), that result added to the
caller's, and nothing else changed. -/
def Emits (m : Mnemonic) (f : Format) (s t : State) : Prop :=
  t.result = (if m ∈ s.cfg.recognized then some { raw := s.word, mnem := m, fmt := f } else none) ∧
  t.emitted = s.emitted ++ [t.result] ∧
  t.word = s.word ∧ t.supply = s.supply ∧ t.cfg = s.cfg

/-- The instruction `i` completes from every state: `exec` answers a next state, the one its own effect gives. -/
def Completes (i : Instr) (m : Mnemonic) (f : Format) : Prop :=
  ∀ s : State, ∃ t : State, exec i s = .next t ∧ Emits m f s t

/-- What a row's rule promises: the row has mnemonic `m` with port code `code` and spelling `text`; every word that meets
`cond` resolves to `m` and the word's own fields `f`; and a step whose next word meets `cond` goes on, whatever the state and
RECOGNIZED_SET are, with that word on the input and its record as the result, or `none` exactly when `m` is outside
RECOGNIZED_SET. -/
def RowGives (m : Mnemonic) (code : BitVec 6) (text : String) (cond : Word → Prop) (f : Word → Format) : Prop :=
  m.code = code ∧ m.text = text ∧
  (∀ w : Word, cond w → resolve w = some (m, f w)) ∧
  ∀ s : State, cond s.nextWord → ∃ t : State, step s = .next t ∧ t.word = s.nextWord ∧ t.cfg = s.cfg ∧
    t.result = if m ∈ s.cfg.recognized then some { raw := s.nextWord, mnem := m, fmt := f s.nextWord } else none

end Machine

end Sys2Proof
end

