-- ==== Sys2Proof/Certificates/Slice0/Obligations.lean ====
section
/-! DEFINITION. The statements for the provers. Each one's docstring says which rules of spec/ it rests on. -/

open Sys2Proof Sys2Proof.Machine

/-- For every word, opcode, rs, rt, rd, shamt, funct, imm and target are the values floor(word / 2^lo) mod 2^(hi-lo+1) of their bit ranges (R8, R61, R65): 31:26, 25:21, 20:16, 15:11, 10:6, 5:0, 15:0 and 25:0. So imm and target are neither extended, shifted nor combined with anything. -/
def Obligations.FieldSlicesAreUnsigned : Prop :=
  ∀ w : Word,
    (opcodeOf w).toNat = w.toNat / 2 ^ 26 % 2 ^ 6 ∧
    (rsOf w).toNat = w.toNat / 2 ^ 21 % 2 ^ 5 ∧
    (rtOf w).toNat = w.toNat / 2 ^ 16 % 2 ^ 5 ∧
    (rdOf w).toNat = w.toNat / 2 ^ 11 % 2 ^ 5 ∧
    (shamtOf w).toNat = w.toNat / 2 ^ 6 % 2 ^ 5 ∧
    (functOf w).toNat = w.toNat % 2 ^ 6 ∧
    (immOf w).toNat = w.toNat % 2 ^ 16 ∧
    (targetOf w).toNat = w.toNat % 2 ^ 26

/-- Six words, written out bit by bit from the encoding lines of R131, R147, R171, R177, R188 and R211, decode to sll, addu, bgez, bgtz, lw and jal with the fields written. Sanity only. -/
def Obligations.WrittenOutWordsDecode : Prop :=
  decode 0b00000000000010010100000010000000#32 = some (.sll 0 9 8 2) ∧
  decode 0b00000000001000100000100000100001#32 = some (.addu 1 2 1 0) ∧
  decode 0b00000100100000010000000000000011#32 = some (.bgez 4 3) ∧
  decode 0b00011101000000000000000000000111#32 = some (.bgtz 8 7) ∧
  decode 0b10001111101010010000000000000100#32 = some (.lw 29 9 4) ∧
  decode 0b00001100000100000000000001000000#32 = some (.jal 0x100040)

/-- For every well-formed instruction, of every row and with every operand at every value its encoding admits, decode (encode i) = some i. No bit of an encoding is dropped. -/
def Obligations.DecodeOfEncodeIsTheInstruction : Prop :=
  ∀ i : Instr, i.wf = true → decode (encode i) = some i

/-- When a word decodes to an instruction, that instruction is well-formed and its encoding is the word: the fields keep all 32 bits, so no bit is lost. -/
def Obligations.EncodeOfDecodeIsTheWord : Prop :=
  ∀ (w : Word) (i : Instr), decode w = some i → i.wf = true ∧ encode i = w

/-- For every word, the mnemonic the staged decoder (classifier, then the format's table) resolves is the one of the first row of the 52-row mask and match table the word belongs to, and none exactly when it belongs to no row. Checking rows in table order without the condition of sll gives the same. -/
def Obligations.MaskTableResolvesTheSameMnemonic : Prop :=
  ∀ w : Word,
    (resolve w).map Prod.fst = rowLookup w ∧ (resolve w).map Prod.fst = rowLookupInOrder w

/-- For every word and any two rows of the table it belongs to (mask, match and condition), the rows are the same row. And of two different rows, only nop and sll share a word when the condition is left out. -/
def Obligations.EveryWordMatchesAtMostOneRow : Prop :=
  ∀ (w : Word) (r₁ r₂ : Row), r₁ ∈ rows → r₂ ∈ rows →
    (r₁.matches w = true → r₂.matches w = true → r₁ = r₂) ∧
    (r₁.matchesBits w = true → r₂.matchesBits w = true → r₁ ≠ r₂ →
      (r₁.mnem = .nop ∧ r₂.mnem = .sll) ∨ (r₁.mnem = .sll ∧ r₂.mnem = .nop))

/-- With the default tables: 26,214,400 words are R format, 1,207,959,552 belong to the 18 opcode-only I rows, 4,194,304 to blez and bgtz, 8,388,608 to the REGIMM rows, 134,217,728 to the J rows; 1,380,974,592 words are recognized and 2,913,992,704 are not. Function code 0 splits into 2^15 nop and 2^20 - 2^15 sll words. R80 marks these counts as the spec's own derivation. -/
def Obligations.RowCountsOfAllWords : Prop :=
  let countOf (p : Instruction → Bool) : Nat :=
    (Finset.univ.filter fun w : Word => (decodeRecord Config.default w).any p = true).card
  let regimm : List Mnemonic := [.bltz, .bgez, .bltzal, .bgezal]
  countOf (fun I => decide (I.fmt.formatClass = .r)) = 26214400 ∧
  countOf (fun I => decide (I.fmt.formatClass = .i ∧ I.mnem ∉ regimm ∧ I.mnem ≠ .blez ∧ I.mnem ≠ .bgtz)) = 1207959552 ∧
  countOf (fun I => decide (I.mnem = .blez ∨ I.mnem = .bgtz)) = 4194304 ∧
  countOf (fun I => decide (I.mnem ∈ regimm)) = 8388608 ∧
  countOf (fun I => decide (I.fmt.formatClass = .j)) = 134217728 ∧
  countOf (fun _ => true) = 1380974592 ∧
  (Finset.univ.filter fun w : Word => decodeRecord Config.default w = none).card = 2913992704 ∧
  countOf (fun I => decide (I.mnem = .nop)) = 2 ^ 15 ∧
  countOf (fun I => decide (I.mnem = .sll)) = 2 ^ 20 - 2 ^ 15

/-- For every RECOGNIZED_SET and word, decode gives none exactly when (a) the classifier does not know the opcode, or (b) the opcode is 0 and the function code is not in its table, or (c) the opcode is 1 and rt is outside the REGIMM table, or the opcode is 6 or 7 and rt is not 0, or (d) the resolved mnemonic is outside RECOGNIZED_SET. Function code 0 is always in the table. Case (d) never happens with the default. -/
def Obligations.UnrecognizedInExactlyFourCases : Prop :=
  (∀ (c : Config) (w : Word),
    decodeRecord c w = none ↔
      classifier (opcodeOf w) = none ∨
      (opcodeOf w = 0x00#6 ∧ functTable (functOf w) = none) ∨
      (opcodeOf w = 0x01#6 ∧ regimmTable (rtOf w) = none) ∨
      ((opcodeOf w = 0x06#6 ∨ opcodeOf w = 0x07#6) ∧ rtOf w ≠ 0#5) ∨
      ∃ m f, resolve w = some (m, f) ∧ m ∉ c.recognized) ∧
  (functTable 0x00#6).isSome = true ∧
  ∀ m : Mnemonic, m ∈ Config.default.recognized

/-- rejection c w is none exactly when the word decodes. It is cause (a) exactly when the classifier does not know the opcode; (d) only when the word resolves; (b) only for opcode 0 and (c) only for an I-format opcode, so (b) and (c) never meet. The cause is the model's own reading aid; no output carries it. -/
def Obligations.RejectionNamesACauseExactlyForUnrecognizedWords : Prop :=
  ∀ (c : Config) (w : Word),
    (rejection c w = none ↔ (decodeRecord c w).isSome = true) ∧
    (rejection c w = some .opcodeAbsent ↔ classifier (opcodeOf w) = none) ∧
    (rejection c w = some .functAbsent ↔ opcodeOf w = 0x00#6 ∧ functTable (functOf w) = none) ∧
    (rejection c w = some .selectorAbsent ↔ classifier (opcodeOf w) = some .i ∧ resolve w = none) ∧
    (rejection c w = some .notRecognized ↔ ∃ m f, resolve w = some (m, f) ∧ m ∉ c.recognized)

/-- The classifier does not know an opcode exactly when it is one of the 40 listed: 0x10 to 0x1F, 0x22, 0x26, 0x27, 0x2A, 0x2C to 0x2F and 0x30 to 0x3F. Every word with such an opcode is unrecognized, whatever its other 26 bits are, and a step on it goes on with the result none. Each of the other 24 opcodes has a word with it that the default tables recognize. -/
def Obligations.FortyOpcodesAreUnrecognized : Prop :=
  let absent : List Opcode :=
    [0x10, 0x11, 0x12, 0x13, 0x14, 0x15, 0x16, 0x17, 0x18, 0x19, 0x1A, 0x1B, 0x1C, 0x1D, 0x1E, 0x1F, 0x22, 0x26, 0x27, 0x2A,
     0x2C, 0x2D, 0x2E, 0x2F, 0x30, 0x31, 0x32, 0x33, 0x34, 0x35, 0x36, 0x37, 0x38, 0x39, 0x3A, 0x3B, 0x3C, 0x3D, 0x3E, 0x3F]
  absent.length = 40 ∧
  (∀ opc : Opcode, classifier opc = none ↔ opc ∈ absent) ∧
  (∀ (c : Config) (w : Word), opcodeOf w ∈ absent → decodeRecord c w = none) ∧
  (∀ opc : Opcode, opc ∉ absent → ∃ w : Word, opcodeOf w = opc ∧ (decodeRecord Config.default w).isSome = true) ∧
  ∀ s : State, opcodeOf s.nextWord ∈ absent → ∃ t, step s = .next t ∧ t.result = none

/-- A function code is outside its table exactly when it is one of the 39 listed. For every rs, rt, rd and shamt, a word with opcode 0 and such a function code is unrecognized, one with any other function code resolves and is recognized by default, and a step on an unrecognized one goes on with the result none. -/
def Obligations.ThirtyNineFunctionCodesAreUnrecognized : Prop :=
  let absent : List Funct :=
    [0x01, 0x05, 0x0A, 0x0B, 0x0D, 0x0E, 0x0F, 0x11, 0x13, 0x14, 0x15, 0x16, 0x17, 0x1C, 0x1D, 0x1E, 0x1F, 0x28, 0x29, 0x2C,
     0x2D, 0x2E, 0x2F, 0x30, 0x31, 0x32, 0x33, 0x34, 0x35, 0x36, 0x37, 0x38, 0x39, 0x3A, 0x3B, 0x3C, 0x3D, 0x3E, 0x3F]
  absent.length = 39 ∧
  (∀ funct : Funct, functTable funct = none ↔ funct ∈ absent) ∧
  (∀ (c : Config) (w : Word), opcodeOf w = 0x00#6 → functOf w ∈ absent → decodeRecord c w = none) ∧
  (∀ w : Word, opcodeOf w = 0x00#6 →
    (resolve w = none ↔ functOf w ∈ absent) ∧ (decodeRecord Config.default w = none ↔ functOf w ∈ absent)) ∧
  ∀ s : State, opcodeOf s.nextWord = 0x00#6 → functOf s.nextWord ∈ absent → ∃ t, step s = .next t ∧ t.result = none

/-- Under opcode 1 an rt is outside the table exactly when it is 0x02 to 0x0F or 0x12 to 0x1F, 28 values; under opcodes 6 and 7 every nonzero rt, 31 values, is outside. For every rs and imm a word with such a pair is unrecognized, with any other rt under these opcodes it resolves, and a step on an unrecognized one goes on with the result none. -/
def Obligations.SelectorPairsAreUnrecognized : Prop :=
  let regimmAbsent : List Reg :=
    [0x02, 0x03, 0x04, 0x05, 0x06, 0x07, 0x08, 0x09, 0x0A, 0x0B, 0x0C, 0x0D, 0x0E, 0x0F, 0x12, 0x13, 0x14, 0x15, 0x16, 0x17,
     0x18, 0x19, 0x1A, 0x1B, 0x1C, 0x1D, 0x1E, 0x1F]
  let absent (w : Word) : Prop :=
    (opcodeOf w = 0x01#6 ∧ rtOf w ∈ regimmAbsent) ∨ ((opcodeOf w = 0x06#6 ∨ opcodeOf w = 0x07#6) ∧ rtOf w ≠ 0#5)
  regimmAbsent.length = 28 ∧
  (∀ w : Word, opcodeOf w = 0x01#6 ∨ opcodeOf w = 0x06#6 ∨ opcodeOf w = 0x07#6 → (resolve w = none ↔ absent w)) ∧
  (∀ (c : Config) (w : Word), absent w → decodeRecord c w = none) ∧
  (Finset.univ.filter fun rt : Reg => rt ≠ 0#5).card = 31 ∧
  ∀ s : State, absent s.nextWord → ∃ t, step s = .next t ∧ t.result = none

/-- Two words with the same opcode resolve to the same mnemonic (or both to none) when: under opcode 0 they agree in funct and, for funct 0, in whether shamt is 0; under opcode 1 they agree in rt; under opcodes 6 and 7 they agree in whether rt is 0; under any other opcode always. -/
def Obligations.UnusedFieldsDoNotSelect : Prop :=
  ∀ w₁ w₂ : Word, opcodeOf w₁ = opcodeOf w₂ →
    (opcodeOf w₁ = 0x00#6 → functOf w₁ = functOf w₂ ∧ (functOf w₁ = 0x00#6 → (shamtOf w₁ = 0#5 ↔ shamtOf w₂ = 0#5))) →
    (opcodeOf w₁ = 0x01#6 → rtOf w₁ = rtOf w₂) →
    (opcodeOf w₁ = 0x06#6 ∨ opcodeOf w₁ = 0x07#6 → (rtOf w₁ = 0#5 ↔ rtOf w₂ = 0#5)) →
    (resolve w₁).map Prod.fst = (resolve w₂).map Prod.fst

/-- The default RECOGNIZED_SET holds every mnemonic. For any RECOGNIZED_SET, decode is the default decode with the records of the mnemonics outside the set removed: a word of a removed row is unrecognized and every other word decodes as before. -/
def Obligations.RecognizedSetOnlyNarrows : Prop :=
  (∀ m : Mnemonic, m ∈ Config.default.recognized) ∧ Mnemonic.all.length = 52 ∧
  ∀ (c : Config) (w : Word),
    decodeRecord c w = (decodeRecord Config.default w).filter fun I => decide (I.mnem ∈ c.recognized)

/-- When decode gives a record: raw is the word; the format is the variant the classifier names for the opcode; every field is the word's slice; the mnemonic is the one the mask and match table gives; and that mnemonic's format is the record's variant. -/
def Obligations.DecodedRecordIsTheWordsOwn : Prop :=
  ∀ (c : Config) (w : Word) (I : Instruction), decodeRecord c w = some I →
    I.raw = w ∧
    classifier (opcodeOf w) = some I.fmt.formatClass ∧
    (∀ rs rt rd shamt funct, I.fmt = .r rs rt rd shamt funct →
      rs = rsOf w ∧ rt = rtOf w ∧ rd = rdOf w ∧ shamt = shamtOf w ∧ funct = functOf w) ∧
    (∀ rs rt imm, I.fmt = .i rs rt imm → rs = rsOf w ∧ rt = rtOf w ∧ imm = immOf w) ∧
    (∀ target, I.fmt = .j target → target = targetOf w) ∧
    rowLookup w = some I.mnem ∧
    I.mnem.formatClass = I.fmt.formatClass

/-- word[31:26] = word[30:25] holds exactly when bits 31 to 25 are all zeros (the opcode is then 0) or all ones (then 0x3F). There are words with bit 31 = bit 25 for which the two still differ, and words for which word[31:27] with a zero on top is a third value. R115 marks this as the spec's own derivation. -/
def Obligations.OpcodeAlignmentsAgreeOnlyOnUniformTopBits : Prop :=
  (∀ w : Word,
    (opcodeOf w = w.extractLsb' 25 6 ↔ w.extractLsb' 25 7 = 0x00#7 ∨ w.extractLsb' 25 7 = 0x7F#7) ∧
    (w.extractLsb' 25 7 = 0x00#7 → opcodeOf w = 0x00#6) ∧
    (w.extractLsb' 25 7 = 0x7F#7 → opcodeOf w = 0x3F#6)) ∧
  (∃ w : Word, w[31] = w[25] ∧ opcodeOf w ≠ w.extractLsb' 25 6) ∧
  ∃ w : Word, 0#1 ++ w.extractLsb' 27 5 ≠ opcodeOf w ∧ 0#1 ++ w.extractLsb' 27 5 ≠ w.extractLsb' 25 6

/-- For nop, sll: the row has the port code and the spelling the rule gives; every word that meets the rule's condition resolves to the mnemonic with exactly the word's own fields; and a step whose next word meets it answers a next state, from every state and for every RECOGNIZED_SET, with the word on the input and the parameters unchanged, whose result is that record with raw the word (or none exactly when the mnemonic is outside RECOGNIZED_SET). The values that select the row are the rule's, by the spec's decision D2 where the source fixes none (log entry 8). -/
def Obligations.NopAndSllRowsDecodeAndRun : Prop :=
  RowGives .nop 0#6 "nop" (fun w => opcodeOf w = 0x00#6 ∧ functOf w = 0x00#6 ∧ shamtOf w = 0#5)
    (fun w => .r (rsOf w) (rtOf w) (rdOf w) 0#5 0x00#6) ∧
  RowGives .sll 1#6 "sll" (fun w => opcodeOf w = 0x00#6 ∧ functOf w = 0x00#6 ∧ shamtOf w ≠ 0#5)
    (fun w => .r (rsOf w) (rtOf w) (rdOf w) (shamtOf w) 0x00#6)

/-- For srl, sra, sllv, srlv, srav: the row has the port code and the spelling the rule gives; every word that meets the rule's condition resolves to the mnemonic with exactly the word's own fields; and a step whose next word meets it answers a next state, from every state and for every RECOGNIZED_SET, with the word on the input and the parameters unchanged, whose result is that record with raw the word (or none exactly when the mnemonic is outside RECOGNIZED_SET). The values that select the row are the rule's, by the spec's decision D2 where the source fixes none (log entry 8). -/
def Obligations.ShiftRowsDecodeAndRun : Prop :=
  RowGives .srl 2#6 "srl" (fun w => opcodeOf w = 0x00#6 ∧ functOf w = 0x02#6)
    (fun w => .r (rsOf w) (rtOf w) (rdOf w) (shamtOf w) 0x02#6) ∧
  RowGives .sra 3#6 "sra" (fun w => opcodeOf w = 0x00#6 ∧ functOf w = 0x03#6)
    (fun w => .r (rsOf w) (rtOf w) (rdOf w) (shamtOf w) 0x03#6) ∧
  RowGives .sllv 4#6 "sllv" (fun w => opcodeOf w = 0x00#6 ∧ functOf w = 0x04#6)
    (fun w => .r (rsOf w) (rtOf w) (rdOf w) (shamtOf w) 0x04#6) ∧
  RowGives .srlv 5#6 "srlv" (fun w => opcodeOf w = 0x00#6 ∧ functOf w = 0x06#6)
    (fun w => .r (rsOf w) (rtOf w) (rdOf w) (shamtOf w) 0x06#6) ∧
  RowGives .srav 6#6 "srav" (fun w => opcodeOf w = 0x00#6 ∧ functOf w = 0x07#6)
    (fun w => .r (rsOf w) (rtOf w) (rdOf w) (shamtOf w) 0x07#6)

/-- For jr, jalr, syscall, mfhi, mflo: the row has the port code and the spelling the rule gives; every word that meets the rule's condition resolves to the mnemonic with exactly the word's own fields; and a step whose next word meets it answers a next state, from every state and for every RECOGNIZED_SET, with the word on the input and the parameters unchanged, whose result is that record with raw the word (or none exactly when the mnemonic is outside RECOGNIZED_SET). The values that select the row are the rule's, by the spec's decision D2 where the source fixes none (log entry 8). -/
def Obligations.RegisterJumpAndSpecialRowsDecodeAndRun : Prop :=
  RowGives .jr 7#6 "jr" (fun w => opcodeOf w = 0x00#6 ∧ functOf w = 0x08#6)
    (fun w => .r (rsOf w) (rtOf w) (rdOf w) (shamtOf w) 0x08#6) ∧
  RowGives .jalr 8#6 "jalr" (fun w => opcodeOf w = 0x00#6 ∧ functOf w = 0x09#6)
    (fun w => .r (rsOf w) (rtOf w) (rdOf w) (shamtOf w) 0x09#6) ∧
  RowGives .syscall 9#6 "syscall" (fun w => opcodeOf w = 0x00#6 ∧ functOf w = 0x0C#6)
    (fun w => .r (rsOf w) (rtOf w) (rdOf w) (shamtOf w) 0x0C#6) ∧
  RowGives .mfhi 10#6 "mfhi" (fun w => opcodeOf w = 0x00#6 ∧ functOf w = 0x10#6)
    (fun w => .r (rsOf w) (rtOf w) (rdOf w) (shamtOf w) 0x10#6) ∧
  RowGives .mflo 11#6 "mflo" (fun w => opcodeOf w = 0x00#6 ∧ functOf w = 0x12#6)
    (fun w => .r (rsOf w) (rtOf w) (rdOf w) (shamtOf w) 0x12#6)

/-- For mult, multu, div, divu: the row has the port code and the spelling the rule gives; every word that meets the rule's condition resolves to the mnemonic with exactly the word's own fields; and a step whose next word meets it answers a next state, from every state and for every RECOGNIZED_SET, with the word on the input and the parameters unchanged, whose result is that record with raw the word (or none exactly when the mnemonic is outside RECOGNIZED_SET). The values that select the row are the rule's, by the spec's decision D2 where the source fixes none (log entry 8). -/
def Obligations.MultiplyDivideRowsDecodeAndRun : Prop :=
  RowGives .mult 12#6 "mult" (fun w => opcodeOf w = 0x00#6 ∧ functOf w = 0x18#6)
    (fun w => .r (rsOf w) (rtOf w) (rdOf w) (shamtOf w) 0x18#6) ∧
  RowGives .multu 13#6 "multu" (fun w => opcodeOf w = 0x00#6 ∧ functOf w = 0x19#6)
    (fun w => .r (rsOf w) (rtOf w) (rdOf w) (shamtOf w) 0x19#6) ∧
  RowGives .div 14#6 "div" (fun w => opcodeOf w = 0x00#6 ∧ functOf w = 0x1A#6)
    (fun w => .r (rsOf w) (rtOf w) (rdOf w) (shamtOf w) 0x1A#6) ∧
  RowGives .divu 15#6 "divu" (fun w => opcodeOf w = 0x00#6 ∧ functOf w = 0x1B#6)
    (fun w => .r (rsOf w) (rtOf w) (rdOf w) (shamtOf w) 0x1B#6)

/-- For add, addu, sub, subu, slt, sltu: the row has the port code and the spelling the rule gives; every word that meets the rule's condition resolves to the mnemonic with exactly the word's own fields; and a step whose next word meets it answers a next state, from every state and for every RECOGNIZED_SET, with the word on the input and the parameters unchanged, whose result is that record with raw the word (or none exactly when the mnemonic is outside RECOGNIZED_SET). The values that select the row are the rule's, by the spec's decision D2 where the source fixes none (log entry 8). -/
def Obligations.ArithmeticRowsDecodeAndRun : Prop :=
  RowGives .add 16#6 "add" (fun w => opcodeOf w = 0x00#6 ∧ functOf w = 0x20#6)
    (fun w => .r (rsOf w) (rtOf w) (rdOf w) (shamtOf w) 0x20#6) ∧
  RowGives .addu 17#6 "addu" (fun w => opcodeOf w = 0x00#6 ∧ functOf w = 0x21#6)
    (fun w => .r (rsOf w) (rtOf w) (rdOf w) (shamtOf w) 0x21#6) ∧
  RowGives .sub 18#6 "sub" (fun w => opcodeOf w = 0x00#6 ∧ functOf w = 0x22#6)
    (fun w => .r (rsOf w) (rtOf w) (rdOf w) (shamtOf w) 0x22#6) ∧
  RowGives .subu 19#6 "subu" (fun w => opcodeOf w = 0x00#6 ∧ functOf w = 0x23#6)
    (fun w => .r (rsOf w) (rtOf w) (rdOf w) (shamtOf w) 0x23#6) ∧
  RowGives .slt 24#6 "slt" (fun w => opcodeOf w = 0x00#6 ∧ functOf w = 0x2A#6)
    (fun w => .r (rsOf w) (rtOf w) (rdOf w) (shamtOf w) 0x2A#6) ∧
  RowGives .sltu 25#6 "sltu" (fun w => opcodeOf w = 0x00#6 ∧ functOf w = 0x2B#6)
    (fun w => .r (rsOf w) (rtOf w) (rdOf w) (shamtOf w) 0x2B#6)

/-- For and, or, xor, nor: the row has the port code and the spelling the rule gives; every word that meets the rule's condition resolves to the mnemonic with exactly the word's own fields; and a step whose next word meets it answers a next state, from every state and for every RECOGNIZED_SET, with the word on the input and the parameters unchanged, whose result is that record with raw the word (or none exactly when the mnemonic is outside RECOGNIZED_SET). The values that select the row are the rule's, by the spec's decision D2 where the source fixes none (log entry 8). -/
def Obligations.LogicalRowsDecodeAndRun : Prop :=
  RowGives .and 20#6 "and" (fun w => opcodeOf w = 0x00#6 ∧ functOf w = 0x24#6)
    (fun w => .r (rsOf w) (rtOf w) (rdOf w) (shamtOf w) 0x24#6) ∧
  RowGives .or 21#6 "or" (fun w => opcodeOf w = 0x00#6 ∧ functOf w = 0x25#6)
    (fun w => .r (rsOf w) (rtOf w) (rdOf w) (shamtOf w) 0x25#6) ∧
  RowGives .xor 22#6 "xor" (fun w => opcodeOf w = 0x00#6 ∧ functOf w = 0x26#6)
    (fun w => .r (rsOf w) (rtOf w) (rdOf w) (shamtOf w) 0x26#6) ∧
  RowGives .nor 23#6 "nor" (fun w => opcodeOf w = 0x00#6 ∧ functOf w = 0x27#6)
    (fun w => .r (rsOf w) (rtOf w) (rdOf w) (shamtOf w) 0x27#6)

/-- For bltz, bgez, bltzal, bgezal: the row has the port code and the spelling the rule gives; every word that meets the rule's condition resolves to the mnemonic with exactly the word's own fields; and a step whose next word meets it answers a next state, from every state and for every RECOGNIZED_SET, with the word on the input and the parameters unchanged, whose result is that record with raw the word (or none exactly when the mnemonic is outside RECOGNIZED_SET). The values that select the row are the rule's, by the spec's decision D2 where the source fixes none (log entry 8). -/
def Obligations.RegimmBranchRowsDecodeAndRun : Prop :=
  RowGives .bltz 26#6 "bltz" (fun w => opcodeOf w = 0x01#6 ∧ rtOf w = 0x00#5)
    (fun w => .i (rsOf w) 0x00#5 (immOf w)) ∧
  RowGives .bgez 27#6 "bgez" (fun w => opcodeOf w = 0x01#6 ∧ rtOf w = 0x01#5)
    (fun w => .i (rsOf w) 0x01#5 (immOf w)) ∧
  RowGives .bltzal 28#6 "bltzal" (fun w => opcodeOf w = 0x01#6 ∧ rtOf w = 0x10#5)
    (fun w => .i (rsOf w) 0x10#5 (immOf w)) ∧
  RowGives .bgezal 29#6 "bgezal" (fun w => opcodeOf w = 0x01#6 ∧ rtOf w = 0x11#5)
    (fun w => .i (rsOf w) 0x11#5 (immOf w))

/-- For beq, bne, blez, bgtz: the row has the port code and the spelling the rule gives; every word that meets the rule's condition resolves to the mnemonic with exactly the word's own fields; and a step whose next word meets it answers a next state, from every state and for every RECOGNIZED_SET, with the word on the input and the parameters unchanged, whose result is that record with raw the word (or none exactly when the mnemonic is outside RECOGNIZED_SET). For blez and bgtz a nonzero rt gives none. The values that select the row are the rule's, by the spec's decision D2 where the source fixes none (log entry 8). -/
def Obligations.CompareBranchRowsDecodeAndRun : Prop :=
  RowGives .beq 30#6 "beq" (fun w => opcodeOf w = 0x04#6)
    (fun w => .i (rsOf w) (rtOf w) (immOf w)) ∧
  RowGives .bne 31#6 "bne" (fun w => opcodeOf w = 0x05#6)
    (fun w => .i (rsOf w) (rtOf w) (immOf w)) ∧
  RowGives .blez 32#6 "blez" (fun w => opcodeOf w = 0x06#6 ∧ rtOf w = 0x00#5)
    (fun w => .i (rsOf w) 0x00#5 (immOf w)) ∧
  RowGives .bgtz 33#6 "bgtz" (fun w => opcodeOf w = 0x07#6 ∧ rtOf w = 0x00#5)
    (fun w => .i (rsOf w) 0x00#5 (immOf w)) ∧
  (∀ w : Word, (opcodeOf w = 0x06#6 ∨ opcodeOf w = 0x07#6) ∧ rtOf w ≠ 0#5 → resolve w = none)

/-- For addi, addiu, slti, sltiu, andi, ori, xori, lui: the row has the port code and the spelling the rule gives; every word that meets the rule's condition resolves to the mnemonic with exactly the word's own fields; and a step whose next word meets it answers a next state, from every state and for every RECOGNIZED_SET, with the word on the input and the parameters unchanged, whose result is that record with raw the word (or none exactly when the mnemonic is outside RECOGNIZED_SET). The values that select the row are the rule's, by the spec's decision D2 where the source fixes none (log entry 8). -/
def Obligations.ImmediateRowsDecodeAndRun : Prop :=
  RowGives .addi 34#6 "addi" (fun w => opcodeOf w = 0x08#6)
    (fun w => .i (rsOf w) (rtOf w) (immOf w)) ∧
  RowGives .addiu 35#6 "addiu" (fun w => opcodeOf w = 0x09#6)
    (fun w => .i (rsOf w) (rtOf w) (immOf w)) ∧
  RowGives .slti 36#6 "slti" (fun w => opcodeOf w = 0x0A#6)
    (fun w => .i (rsOf w) (rtOf w) (immOf w)) ∧
  RowGives .sltiu 37#6 "sltiu" (fun w => opcodeOf w = 0x0B#6)
    (fun w => .i (rsOf w) (rtOf w) (immOf w)) ∧
  RowGives .andi 38#6 "andi" (fun w => opcodeOf w = 0x0C#6)
    (fun w => .i (rsOf w) (rtOf w) (immOf w)) ∧
  RowGives .ori 39#6 "ori" (fun w => opcodeOf w = 0x0D#6)
    (fun w => .i (rsOf w) (rtOf w) (immOf w)) ∧
  RowGives .xori 40#6 "xori" (fun w => opcodeOf w = 0x0E#6)
    (fun w => .i (rsOf w) (rtOf w) (immOf w)) ∧
  RowGives .lui 41#6 "lui" (fun w => opcodeOf w = 0x0F#6)
    (fun w => .i (rsOf w) (rtOf w) (immOf w))

/-- For lb, lh, lw, lbu, lhu, sb, sh, sw: the row has the port code and the spelling the rule gives; every word that meets the rule's condition resolves to the mnemonic with exactly the word's own fields; and a step whose next word meets it answers a next state, from every state and for every RECOGNIZED_SET, with the word on the input and the parameters unchanged, whose result is that record with raw the word (or none exactly when the mnemonic is outside RECOGNIZED_SET). The values that select the row are the rule's, by the spec's decision D2 where the source fixes none (log entry 8). -/
def Obligations.LoadStoreRowsDecodeAndRun : Prop :=
  RowGives .lb 42#6 "lb" (fun w => opcodeOf w = 0x20#6)
    (fun w => .i (rsOf w) (rtOf w) (immOf w)) ∧
  RowGives .lh 43#6 "lh" (fun w => opcodeOf w = 0x21#6)
    (fun w => .i (rsOf w) (rtOf w) (immOf w)) ∧
  RowGives .lw 44#6 "lw" (fun w => opcodeOf w = 0x23#6)
    (fun w => .i (rsOf w) (rtOf w) (immOf w)) ∧
  RowGives .lbu 45#6 "lbu" (fun w => opcodeOf w = 0x24#6)
    (fun w => .i (rsOf w) (rtOf w) (immOf w)) ∧
  RowGives .lhu 46#6 "lhu" (fun w => opcodeOf w = 0x25#6)
    (fun w => .i (rsOf w) (rtOf w) (immOf w)) ∧
  RowGives .sb 47#6 "sb" (fun w => opcodeOf w = 0x28#6)
    (fun w => .i (rsOf w) (rtOf w) (immOf w)) ∧
  RowGives .sh 48#6 "sh" (fun w => opcodeOf w = 0x29#6)
    (fun w => .i (rsOf w) (rtOf w) (immOf w)) ∧
  RowGives .sw 49#6 "sw" (fun w => opcodeOf w = 0x2B#6)
    (fun w => .i (rsOf w) (rtOf w) (immOf w))

/-- For j, jal: the row has the port code and the spelling the rule gives; every word that meets the rule's condition resolves to the mnemonic with exactly the word's own fields; and a step whose next word meets it answers a next state, from every state and for every RECOGNIZED_SET, with the word on the input and the parameters unchanged, whose result is that record with raw the word (or none exactly when the mnemonic is outside RECOGNIZED_SET). The values that select the row are the rule's, by the spec's decision D2 where the source fixes none (log entry 8). -/
def Obligations.JumpRowsDecodeAndRun : Prop :=
  RowGives .j 50#6 "j" (fun w => opcodeOf w = 0x02#6)
    (fun w => .j (targetOf w)) ∧
  RowGives .jal 51#6 "jal" (fun w => opcodeOf w = 0x03#6)
    (fun w => .j (targetOf w))

/-- For nop, sll with every operand value and from every state: exec answers a next state. Its result is the record of that mnemonic with the raw word on the input and the operands as raw fields, or none when the mnemonic is outside RECOGNIZED_SET; the caller receives that result after those it had; the input, the supply and the parameters are unchanged. The caller's list and the supply are the model's own fields (log entries 1 and 5). That the record takes its raw word from the input is the model's reading of R27 (log entry 18). -/
def Obligations.NopAndSllCompletes : Prop :=
  ∀ (rs : Reg) (rt : Reg) (rd : Reg) (shamt : Shamt),
    Completes (.nop rs rt rd) .nop (.r rs rt rd 0#5 0x00#6) ∧
    Completes (.sll rs rt rd shamt) .sll (.r rs rt rd shamt 0x00#6)

/-- For srl, sra, sllv, srlv, srav with every operand value and from every state: exec answers a next state. Its result is the record of that mnemonic with the raw word on the input and the operands as raw fields, or none when the mnemonic is outside RECOGNIZED_SET; the caller receives that result after those it had; the input, the supply and the parameters are unchanged. The caller's list and the supply are the model's own fields (log entries 1 and 5). That the record takes its raw word from the input is the model's reading of R27 (log entry 18). -/
def Obligations.ShiftCompletes : Prop :=
  ∀ (rs : Reg) (rt : Reg) (rd : Reg) (shamt : Shamt),
    Completes (.srl rs rt rd shamt) .srl (.r rs rt rd shamt 0x02#6) ∧
    Completes (.sra rs rt rd shamt) .sra (.r rs rt rd shamt 0x03#6) ∧
    Completes (.sllv rs rt rd shamt) .sllv (.r rs rt rd shamt 0x04#6) ∧
    Completes (.srlv rs rt rd shamt) .srlv (.r rs rt rd shamt 0x06#6) ∧
    Completes (.srav rs rt rd shamt) .srav (.r rs rt rd shamt 0x07#6)

/-- For jr, jalr, syscall, mfhi, mflo with every operand value and from every state: exec answers a next state. Its result is the record of that mnemonic with the raw word on the input and the operands as raw fields, or none when the mnemonic is outside RECOGNIZED_SET; the caller receives that result after those it had; the input, the supply and the parameters are unchanged. The caller's list and the supply are the model's own fields (log entries 1 and 5). That the record takes its raw word from the input is the model's reading of R27 (log entry 18). -/
def Obligations.RegisterJumpAndSpecialCompletes : Prop :=
  ∀ (rs : Reg) (rt : Reg) (rd : Reg) (shamt : Shamt),
    Completes (.jr rs rt rd shamt) .jr (.r rs rt rd shamt 0x08#6) ∧
    Completes (.jalr rs rt rd shamt) .jalr (.r rs rt rd shamt 0x09#6) ∧
    Completes (.syscall rs rt rd shamt) .syscall (.r rs rt rd shamt 0x0C#6) ∧
    Completes (.mfhi rs rt rd shamt) .mfhi (.r rs rt rd shamt 0x10#6) ∧
    Completes (.mflo rs rt rd shamt) .mflo (.r rs rt rd shamt 0x12#6)

/-- For mult, multu, div, divu with every operand value and from every state: exec answers a next state. Its result is the record of that mnemonic with the raw word on the input and the operands as raw fields, or none when the mnemonic is outside RECOGNIZED_SET; the caller receives that result after those it had; the input, the supply and the parameters are unchanged. The caller's list and the supply are the model's own fields (log entries 1 and 5). That the record takes its raw word from the input is the model's reading of R27 (log entry 18). -/
def Obligations.MultiplyDivideCompletes : Prop :=
  ∀ (rs : Reg) (rt : Reg) (rd : Reg) (shamt : Shamt),
    Completes (.mult rs rt rd shamt) .mult (.r rs rt rd shamt 0x18#6) ∧
    Completes (.multu rs rt rd shamt) .multu (.r rs rt rd shamt 0x19#6) ∧
    Completes (.div rs rt rd shamt) .div (.r rs rt rd shamt 0x1A#6) ∧
    Completes (.divu rs rt rd shamt) .divu (.r rs rt rd shamt 0x1B#6)

/-- For add, addu, sub, subu, slt, sltu with every operand value and from every state: exec answers a next state. Its result is the record of that mnemonic with the raw word on the input and the operands as raw fields, or none when the mnemonic is outside RECOGNIZED_SET; the caller receives that result after those it had; the input, the supply and the parameters are unchanged. The caller's list and the supply are the model's own fields (log entries 1 and 5). That the record takes its raw word from the input is the model's reading of R27 (log entry 18). -/
def Obligations.ArithmeticCompletes : Prop :=
  ∀ (rs : Reg) (rt : Reg) (rd : Reg) (shamt : Shamt),
    Completes (.add rs rt rd shamt) .add (.r rs rt rd shamt 0x20#6) ∧
    Completes (.addu rs rt rd shamt) .addu (.r rs rt rd shamt 0x21#6) ∧
    Completes (.sub rs rt rd shamt) .sub (.r rs rt rd shamt 0x22#6) ∧
    Completes (.subu rs rt rd shamt) .subu (.r rs rt rd shamt 0x23#6) ∧
    Completes (.slt rs rt rd shamt) .slt (.r rs rt rd shamt 0x2A#6) ∧
    Completes (.sltu rs rt rd shamt) .sltu (.r rs rt rd shamt 0x2B#6)

/-- For and, or, xor, nor with every operand value and from every state: exec answers a next state. Its result is the record of that mnemonic with the raw word on the input and the operands as raw fields, or none when the mnemonic is outside RECOGNIZED_SET; the caller receives that result after those it had; the input, the supply and the parameters are unchanged. The caller's list and the supply are the model's own fields (log entries 1 and 5). That the record takes its raw word from the input is the model's reading of R27 (log entry 18). -/
def Obligations.LogicalCompletes : Prop :=
  ∀ (rs : Reg) (rt : Reg) (rd : Reg) (shamt : Shamt),
    Completes (.and rs rt rd shamt) .and (.r rs rt rd shamt 0x24#6) ∧
    Completes (.or rs rt rd shamt) .or (.r rs rt rd shamt 0x25#6) ∧
    Completes (.xor rs rt rd shamt) .xor (.r rs rt rd shamt 0x26#6) ∧
    Completes (.nor rs rt rd shamt) .nor (.r rs rt rd shamt 0x27#6)

/-- For bltz, bgez, bltzal, bgezal with every operand value and from every state: exec answers a next state. Its result is the record of that mnemonic with the raw word on the input and the operands as raw fields, or none when the mnemonic is outside RECOGNIZED_SET; the caller receives that result after those it had; the input, the supply and the parameters are unchanged. The caller's list and the supply are the model's own fields (log entries 1 and 5). That the record takes its raw word from the input is the model's reading of R27 (log entry 18). -/
def Obligations.RegimmBranchCompletes : Prop :=
  ∀ (rs : Reg) (imm : Imm),
    Completes (.bltz rs imm) .bltz (.i rs 0x00#5 imm) ∧
    Completes (.bgez rs imm) .bgez (.i rs 0x01#5 imm) ∧
    Completes (.bltzal rs imm) .bltzal (.i rs 0x10#5 imm) ∧
    Completes (.bgezal rs imm) .bgezal (.i rs 0x11#5 imm)

/-- For beq, bne, blez, bgtz with every operand value and from every state: exec answers a next state. Its result is the record of that mnemonic with the raw word on the input and the operands as raw fields, or none when the mnemonic is outside RECOGNIZED_SET; the caller receives that result after those it had; the input, the supply and the parameters are unchanged. The caller's list and the supply are the model's own fields (log entries 1 and 5). That the record takes its raw word from the input is the model's reading of R27 (log entry 18). -/
def Obligations.CompareBranchCompletes : Prop :=
  ∀ (rs : Reg) (rt : Reg) (imm : Imm),
    Completes (.beq rs rt imm) .beq (.i rs rt imm) ∧
    Completes (.bne rs rt imm) .bne (.i rs rt imm) ∧
    Completes (.blez rs imm) .blez (.i rs 0x00#5 imm) ∧
    Completes (.bgtz rs imm) .bgtz (.i rs 0x00#5 imm)

/-- For addi, addiu, slti, sltiu, andi, ori, xori, lui with every operand value and from every state: exec answers a next state. Its result is the record of that mnemonic with the raw word on the input and the operands as raw fields, or none when the mnemonic is outside RECOGNIZED_SET; the caller receives that result after those it had; the input, the supply and the parameters are unchanged. The caller's list and the supply are the model's own fields (log entries 1 and 5). That the record takes its raw word from the input is the model's reading of R27 (log entry 18). -/
def Obligations.ImmediateCompletes : Prop :=
  ∀ (rs : Reg) (rt : Reg) (imm : Imm),
    Completes (.addi rs rt imm) .addi (.i rs rt imm) ∧
    Completes (.addiu rs rt imm) .addiu (.i rs rt imm) ∧
    Completes (.slti rs rt imm) .slti (.i rs rt imm) ∧
    Completes (.sltiu rs rt imm) .sltiu (.i rs rt imm) ∧
    Completes (.andi rs rt imm) .andi (.i rs rt imm) ∧
    Completes (.ori rs rt imm) .ori (.i rs rt imm) ∧
    Completes (.xori rs rt imm) .xori (.i rs rt imm) ∧
    Completes (.lui rs rt imm) .lui (.i rs rt imm)

/-- For lb, lh, lw, lbu, lhu, sb, sh, sw with every operand value and from every state: exec answers a next state. Its result is the record of that mnemonic with the raw word on the input and the operands as raw fields, or none when the mnemonic is outside RECOGNIZED_SET; the caller receives that result after those it had; the input, the supply and the parameters are unchanged. The caller's list and the supply are the model's own fields (log entries 1 and 5). That the record takes its raw word from the input is the model's reading of R27 (log entry 18). -/
def Obligations.LoadStoreCompletes : Prop :=
  ∀ (rs : Reg) (rt : Reg) (imm : Imm),
    Completes (.lb rs rt imm) .lb (.i rs rt imm) ∧
    Completes (.lh rs rt imm) .lh (.i rs rt imm) ∧
    Completes (.lw rs rt imm) .lw (.i rs rt imm) ∧
    Completes (.lbu rs rt imm) .lbu (.i rs rt imm) ∧
    Completes (.lhu rs rt imm) .lhu (.i rs rt imm) ∧
    Completes (.sb rs rt imm) .sb (.i rs rt imm) ∧
    Completes (.sh rs rt imm) .sh (.i rs rt imm) ∧
    Completes (.sw rs rt imm) .sw (.i rs rt imm)

/-- For j, jal with every operand value and from every state: exec answers a next state. Its result is the record of that mnemonic with the raw word on the input and the operands as raw fields, or none when the mnemonic is outside RECOGNIZED_SET; the caller receives that result after those it had; the input, the supply and the parameters are unchanged. The caller's list and the supply are the model's own fields (log entries 1 and 5). That the record takes its raw word from the input is the model's reading of R27 (log entry 18). -/
def Obligations.JumpCompletes : Prop :=
  ∀ (target : Target),
    Completes (.j target) .j (.j target) ∧
    Completes (.jal target) .jal (.j target)

/-- When the next word decodes to an instruction, step is exec of it at the state in which the supplier has put that word on the input: its first word if it has one, and otherwise the word already there (the model's choice of the supplier, log entries 1 and 2). withFetchWord makes the given word that next word. -/
def Obligations.StepRunsTheDecodedInstruction : Prop :=
  (∀ (s : State) (i : Instr), decode s.nextWord = some i → step s = exec i s.present) ∧
  (∀ (s : State) (w : Word) (rest : List Word), s.supply = w :: rest →
    s.present = { s with word := w, supply := rest } ∧ s.nextWord = w) ∧
  (∀ s : State, s.supply = [] → s.present = s ∧ s.nextWord = s.word) ∧
  ∀ (s : State) (w : Word), (s.withFetchWord 32 w.toNat).nextWord = w

/-- For every state: step answers the next state in which the supplier's next word is on the input, the result is decode of that word under the state's RECOGNIZED_SET as R105 writes it, the caller has received it, and nothing else changed. So the machine that runs typed instructions one by one is the decode function. The supply and the caller's list are the model's own fields (log entries 1 and 5). -/
def Obligations.StepComputesDecodeOfTheNextWord : Prop :=
  ∀ s : State,
    step s = .next
      { cfg := s.cfg
        word := s.nextWord
        result := decodeRecord s.cfg s.nextWord
        supply := s.supply.tail
        emitted := s.emitted ++ [decodeRecord s.cfg s.nextWord] }

/-- For every state step answers a next state, never a fault and never a refusal, and its result is either no record at all or one complete record of the word on the input. -/
def Obligations.EveryStepGoesOn : Prop :=
  ∀ s : State, ∃ t : State, step s = .next t ∧
    (t.result = none ∨ ∃ m f, t.result = some { raw := t.word, mnem := m, fmt := f } ∧ resolve t.word = some (m, f))

/-- When the next word is unrecognized, for whatever cause, the step answers a next state with the result none and ok = 0, and changes nothing else: that word is on the input, the supply has lost only it, the caller has received none after what it had, and the parameters are as they were. The step after it goes on too, its result being the decode of its own next word, which is the supply's second one if there is one. The supply and the caller's list are the model's own fields (log entries 1 and 5). -/
def Obligations.UnrecognizedWordIsNoTrap : Prop :=
  ∀ s : State, decodeRecord s.cfg s.nextWord = none →
    ∃ t u : State, step s = .next t ∧ t.result = none ∧ t.ports.ok = 0#1 ∧ t.word = s.nextWord ∧ t.supply = s.supply.tail ∧
      t.emitted = s.emitted ++ [none] ∧ t.cfg = s.cfg ∧
      (∀ (w v : Word) (rest : List Word), s.supply = w :: v :: rest → t.nextWord = v) ∧
      step t = .next u ∧ u.result = decodeRecord s.cfg t.nextWord ∧ u.cfg = s.cfg

/-- For every instruction and state, when exec gives a next state: the input word, the words still to come, RECOGNIZED_SET and RENDER_VERBOSE are unchanged, and every result the caller had received is still there, unchanged and in order, followed by exactly the new one. There is no register, flag, memory or special register that could change. The supply and the caller's list are the model's own fields (log entries 1 and 5). -/
def Obligations.InstructionsTouchOnlyTheOutputs : Prop :=
  ∀ (i : Instr) (s t : State), exec i s = .next t →
    t.word = s.word ∧ t.supply = s.supply ∧ t.cfg = s.cfg ∧ t.emitted = s.emitted ++ [t.result]

/-- For every state and next word, a step leaves both build-time parameters as they are; and so does any number of steps. -/
def Obligations.ParametersNeverChange : Prop :=
  (∀ s t : State, step s = .next t → t.cfg = s.cfg) ∧
  ∀ (n : Nat) (s t : State), Sys2Proof.core.run n s = .next t → t.cfg = s.cfg

/-- Two states that agree in the next word and in RECOGNIZED_SET, and in nothing else perhaps (different earlier words, results, supplies), give steps with equal results and equal output ports. So nothing of an earlier word reaches a later output, and evaluating a word again gives the same result. -/
def Obligations.ResultDependsOnTheWordAlone : Prop :=
  ∀ s₁ s₂ t₁ t₂ : State, s₁.nextWord = s₂.nextWord → (∀ m, m ∈ s₁.cfg.recognized ↔ m ∈ s₂.cfg.recognized) →
    step s₁ = .next t₁ → step s₂ = .next t₂ → t₁.result = t₂.result ∧ t₁.ports = t₂.ports

/-- For every state and every sequence of words that the supplier presents, that many steps reach a next state whose new results are exactly decode of each word in the order presented, with the rest of the supply and the parameters unchanged. In another order of the same words the same results come out, in that other order. The supply and the caller's list are the model's own fields (log entries 1 and 5). -/
def Obligations.RunIsDecodeOfEachWord : Prop :=
  (∀ (s : State) (ws rest : List Word), s.supply = ws ++ rest →
    ∃ t : State, Sys2Proof.core.run ws.length s = .next t ∧
      t.emitted = s.emitted ++ ws.map (decodeRecord s.cfg) ∧ t.supply = rest ∧ t.cfg = s.cfg) ∧
  ∀ (s₁ s₂ t₁ t₂ : State) (ws vs : List Word), ws.Perm vs → s₁.cfg = s₂.cfg → s₁.supply = ws → s₂.supply = vs →
    s₁.emitted = [] → s₂.emitted = [] →
    Sys2Proof.core.run ws.length s₁ = .next t₁ → Sys2Proof.core.run vs.length s₂ = .next t₂ → t₁.emitted.Perm t₂.emitted

/-- Inv says: the result on the outputs is decode of the word on the input, and every record the caller has received has the mnemonic and format its own raw word has. Every step from a state that meets Inv answers a state that meets it. The caller's list is the model's own field (log entry 5). -/
def Obligations.StepKeepsOutputsAndRecordsConsistent : Prop :=
  ∀ s t : State, s.Inv → step s = .next t → t.Inv

/-- State.reset meets Inv: its outputs are ports(word) for the word on the input. RECOGNIZED_SET holds all 52 mnemonics and RENDER_VERBOSE is false. That the word at power-up is 0 is the model's choice (log entry 3), and nothing here says which word it is. -/
def Obligations.PowerUpMeetsTheOutputRule : Prop :=
  State.reset.Inv ∧ State.reset.ports = resultPorts (decodeRecord State.reset.cfg State.reset.word) ∧
  (∀ m : Mnemonic, m ∈ State.reset.cfg.recognized) ∧ State.reset.cfg.renderVerbose = false

/-- A step on a syscall word goes on like any other: the result is its record (none if syscall is outside RECOGNIZED_SET), which the caller receives after what it had, and nothing else changes: the word is on the input, the supply has lost only it, and the parameters are as they were. Every word with opcode 0 and function code 0x0D (break), with opcode 0x10 (COP0) or with opcode 0x2F (cache) is unrecognized under every RECOGNIZED_SET. The supply and the caller's list are the model's own fields (log entries 1 and 5). -/
def Obligations.SystemWordsHaveNoEffectBeyondTheRecord : Prop :=
  (∀ s : State, opcodeOf s.nextWord = 0x00#6 → functOf s.nextWord = 0x0C#6 →
    ∃ t : State, step s = .next t ∧ t.word = s.nextWord ∧ t.cfg = s.cfg ∧ t.supply = s.supply.tail ∧
      t.emitted = s.emitted ++ [t.result] ∧
      t.result = if Mnemonic.syscall ∈ s.cfg.recognized then some ⟨s.nextWord, .syscall, formatR s.nextWord⟩ else none) ∧
  ∀ (c : Config) (w : Word),
    (opcodeOf w = 0x00#6 ∧ functOf w = 0x0D#6) ∨ opcodeOf w = 0x10#6 ∨ opcodeOf w = 0x2F#6 → decodeRecord c w = none

/-- After every step: ok is 1 exactly when the next word decodes. For a record, raw is the word on the input, mnem is the mnemonic's code and fmt its format's code; an R record shows rs, rt, rd, shamt and funct with imm and target 0, an I record rs, rt and imm with the other field ports 0, a J record target with every other field port 0. (Nothing is said of the ports when ok is 0.) -/
def Obligations.PortsShowTheRecord : Prop :=
  ∀ s t : State, step s = .next t →
    (t.ports.ok = 1#1 ↔ (decodeRecord s.cfg s.nextWord).isSome = true) ∧
    ∀ I : Instruction, t.result = some I →
      t.ports.raw = s.nextWord ∧ t.ports.mnem = I.mnem.code ∧
      (∀ rs rt rd shamt funct, I.fmt = .r rs rt rd shamt funct →
        t.ports.fmt = 0#2 ∧ t.ports.rs = rs ∧ t.ports.rt = rt ∧ t.ports.rd = rd ∧ t.ports.shamt = shamt ∧
        t.ports.funct = funct ∧ t.ports.imm = 0#16 ∧ t.ports.target = 0#26) ∧
      (∀ rs rt imm, I.fmt = .i rs rt imm →
        t.ports.fmt = 1#2 ∧ t.ports.rs = rs ∧ t.ports.rt = rt ∧ t.ports.imm = imm ∧ t.ports.rd = 0#5 ∧
        t.ports.shamt = 0#5 ∧ t.ports.funct = 0#6 ∧ t.ports.target = 0#26) ∧
      (∀ target, I.fmt = .j target →
        t.ports.fmt = 2#2 ∧ t.ports.target = target ∧ t.ports.rs = 0#5 ∧ t.ports.rt = 0#5 ∧ t.ports.rd = 0#5 ∧
        t.ports.shamt = 0#5 ∧ t.ports.funct = 0#6 ∧ t.ports.imm = 0#16)

/-- Two results with equal ports are equal: the ports are a flat encoding of the optional record, from which it can be read back. -/
def Obligations.PortsLoseNothing : Prop :=
  ∀ r₁ r₂ : Option Instruction, resultPorts r₁ = resultPorts r₂ → r₁ = r₂

/-- The mnemonics in the order of R28 have the codes 0 to 51, so no two share one. No record drives fmt = 3 or a mnem code of 52 or more. -/
def Obligations.MnemonicCodesAreTheTable : Prop :=
  Mnemonic.all.map (fun m => m.code.toNat) = List.range 52 ∧ (∀ m : Mnemonic, m ∈ Mnemonic.all) ∧
  ∀ I : Instruction, (recordPorts I).fmt ≠ 3#2 ∧ (recordPorts I).mnem.toNat < 52

/-- For every record: an R line is mnemonic, rs, rt, rd, and only in verbose mode also shamt and funct in hexadecimal; an I line is mnemonic, rs, rt and imm in hexadecimal; a J line is mnemonic and target in hexadecimal; tokens are separated by single spaces and I and J lines do not depend on the verbosity. -/
def Obligations.RenderedLinesHaveTheirForm : Prop :=
  (∀ (raw : Word) (m : Mnemonic) (rs rt rd : Reg) (shamt : Shamt) (funct : Funct),
    render false ⟨raw, m, .r rs rt rd shamt funct⟩ =
      m.text ++ " $" ++ decToken rs ++ " $" ++ decToken rt ++ " $" ++ decToken rd ∧
    render true ⟨raw, m, .r rs rt rd shamt funct⟩ =
      m.text ++ " $" ++ decToken rs ++ " $" ++ decToken rt ++ " $" ++ decToken rd ++ " " ++ hexToken shamt ++ " " ++
        hexToken funct) ∧
  (∀ (verbose : Bool) (raw : Word) (m : Mnemonic) (rs rt : Reg) (imm : Imm),
    render verbose ⟨raw, m, .i rs rt imm⟩ = m.text ++ " $" ++ decToken rs ++ " $" ++ decToken rt ++ " " ++ hexToken imm) ∧
  ∀ (verbose : Bool) (raw : Word) (m : Mnemonic) (target : Target),
    render verbose ⟨raw, m, .j target⟩ = m.text ++ " " ++ hexToken target

/-- For a field of any width, the token's characters are those of its digit list; read in its base, most significant digit first, the digits give the field's unsigned value; every digit is below the base; and the first digit is 0 only for the value 0, whose token is the single digit 0. The 16 digit characters are 0 to 9 and a to f. -/
def Obligations.TokensReadBackToTheirValue : Prop :=
  (∀ (width : Nat) (v : BitVec width) (base : Nat), base = 10 ∨ base = 16 →
    (fieldDigits base v).foldl (fun n d => n * base + d) 0 = v.toNat ∧
    (∀ d ∈ fieldDigits base v, d < base) ∧
    (∀ rest, fieldDigits base v = 0 :: rest → rest = [] ∧ v.toNat = 0) ∧
    (v.toNat = 0 → fieldDigits base v = [0])) ∧
  (∀ (width : Nat) (v : BitVec width),
    (hexToken v).toList = (fieldDigits 16 v).map Nat.digitChar ∧
    (decToken v).toList = (fieldDigits 10 v).map Nat.digitChar) ∧
  (List.range 16).map Nat.digitChar = ['0', '1', '2', '3', '4', '5', '6', '7', '8', '9', 'a', 'b', 'c', 'd', 'e', 'f']

/-- A line never depends on raw, and the canonical line of an R record, of any mnemonic, never depends on shamt or funct. In particular addu words that differ only in shamt are different words, decode to different records and render to the same canonical line. So the canonical rendering is not injective. R230 marks this as the spec's own derivation. -/
def Obligations.CanonicalRenderingForgetsTheShift : Prop :=
  (∀ (verbose : Bool) (raw₁ raw₂ : Word) (m : Mnemonic) (f : Format),
    render verbose ⟨raw₁, m, f⟩ = render verbose ⟨raw₂, m, f⟩) ∧
  (∀ (raw₁ raw₂ : Word) (m : Mnemonic) (rs rt rd : Reg) (shamt₁ shamt₂ : Shamt) (funct₁ funct₂ : Funct),
    render false ⟨raw₁, m, .r rs rt rd shamt₁ funct₁⟩ = render false ⟨raw₂, m, .r rs rt rd shamt₂ funct₂⟩) ∧
  ∀ (rs rt rd : Reg) (shamt₁ shamt₂ : Shamt), shamt₁ ≠ shamt₂ →
    ∃ I J : Instruction,
      decodeRecord Config.default (encode (.addu rs rt rd shamt₁)) = some I ∧
      decodeRecord Config.default (encode (.addu rs rt rd shamt₂)) = some J ∧
      I.raw ≠ J.raw ∧ render false I = render false J

/-- Whatever DECODE_LATENCY (the number of output registers) is and whatever the registers hold at first: over any words, the ports seen are first the registers' first contents and then, word by word and in order, the ports of each word. So the outputs for a word are those of R27 whatever the latency is, and an output never mixes two words. -/
def Obligations.RegisteredOutputsAreDelayedPorts : Prop :=
  ∀ (c : Config) (pipe : List Ports) (ws : List Word),
    registeredOutputs c pipe ws = (pipe ++ ws.map fun w => resultPorts (decodeRecord c w)).take ws.length

/-- In big-endian order the byte at the lowest address is word[31:24] and the last word[7:0]; in little-endian order the other way round; and every word is built from some four bytes in either order. R42 and D11 only leave the order open, as the supplier's parameter, and place no byte: which byte lands where under each of the two names is the model's choice (wordOfBytes, DESIGN CHOICE, log entry 14). -/
def Obligations.BytesMakeTheWordInEitherOrder : Prop :=
  (∀ b0 b1 b2 b3 : Byte,
    (wordOfBytes .big b0 b1 b2 b3).toNat = ((b0.toNat * 256 + b1.toNat) * 256 + b2.toNat) * 256 + b3.toNat ∧
    (wordOfBytes .little b0 b1 b2 b3).toNat = ((b3.toNat * 256 + b2.toNat) * 256 + b1.toNat) * 256 + b0.toNat) ∧
  ∀ (order : ByteOrder) (w : Word), ∃ b0 b1 b2 b3 : Byte, wordOfBytes order b0 b1 b2 b3 = w
end

