-- ==== Sys2Proof/Laws/Decode.lean ====
section
/-! SUPPORT. Laws of the decoder: the slices of an encoded word, the encoding of a word's own slices, and what a resolved
word can be. -/

namespace Sys2Proof

/-! ### Slices of the three layouts -/

theorem toNat_slice (w : Word) (lo len : Nat) : (w.extractLsb' lo len).toNat = w.toNat / 2 ^ lo % 2 ^ len := by
  simp [BitVec.extractLsb'_toNat, Nat.shiftRight_eq_div_pow]

theorem encodeR_toNat (rs rt rd : Reg) (shamt : Shamt) (funct : Funct) :
    (encodeR rs rt rd shamt funct).toNat =
      rs.toNat * 2 ^ 21 + rt.toNat * 2 ^ 16 + rd.toNat * 2 ^ 11 + shamt.toNat * 2 ^ 6 + funct.toNat := by
  have h1 := rs.isLt; have h2 := rt.isLt; have h3 := rd.isLt; have h4 := shamt.isLt; have h5 := funct.isLt
  simp only [encodeR, BitVec.toNat_append]
  rw [← Nat.shiftLeft_add_eq_or_of_lt (by omega), ← Nat.shiftLeft_add_eq_or_of_lt (by omega),
    ← Nat.shiftLeft_add_eq_or_of_lt (by omega), ← Nat.shiftLeft_add_eq_or_of_lt (by omega),
    ← Nat.shiftLeft_add_eq_or_of_lt (by omega)]
  simp only [Nat.shiftLeft_eq, BitVec.toNat_ofNat]
  omega

theorem encodeI_toNat (opc : Opcode) (rs rt : Reg) (imm : Imm) :
    (encodeI opc rs rt imm).toNat = opc.toNat * 2 ^ 26 + rs.toNat * 2 ^ 21 + rt.toNat * 2 ^ 16 + imm.toNat := by
  have h1 := opc.isLt; have h2 := rs.isLt; have h3 := rt.isLt; have h4 := imm.isLt
  simp only [encodeI, BitVec.toNat_append]
  rw [← Nat.shiftLeft_add_eq_or_of_lt (by omega), ← Nat.shiftLeft_add_eq_or_of_lt (by omega),
    ← Nat.shiftLeft_add_eq_or_of_lt (by omega)]
  simp only [Nat.shiftLeft_eq]
  omega

theorem encodeJ_toNat (opc : Opcode) (target : Target) :
    (encodeJ opc target).toNat = opc.toNat * 2 ^ 26 + target.toNat := by
  have h1 := target.isLt
  simp only [encodeJ, BitVec.toNat_append]
  rw [← Nat.shiftLeft_add_eq_or_of_lt (by omega)]
  simp only [Nat.shiftLeft_eq]

section Slices
variable (rs rt rd : Reg) (shamt : Shamt) (funct : Funct) (opc : Opcode) (imm : Imm) (target : Target)

@[simp] theorem opcodeOf_encodeR : opcodeOf (encodeR rs rt rd shamt funct) = 0x00#6 := by
  apply BitVec.eq_of_toNat_eq
  have h1 := rs.isLt; have h2 := rt.isLt; have h3 := rd.isLt; have h4 := shamt.isLt; have h5 := funct.isLt
  rw [opcodeOf, toNat_slice, encodeR_toNat]; simp; omega
@[simp] theorem rsOf_encodeR : rsOf (encodeR rs rt rd shamt funct) = rs := by
  apply BitVec.eq_of_toNat_eq
  have h1 := rs.isLt; have h2 := rt.isLt; have h3 := rd.isLt; have h4 := shamt.isLt; have h5 := funct.isLt
  rw [rsOf, toNat_slice, encodeR_toNat]; omega
@[simp] theorem rtOf_encodeR : rtOf (encodeR rs rt rd shamt funct) = rt := by
  apply BitVec.eq_of_toNat_eq
  have h2 := rt.isLt; have h3 := rd.isLt; have h4 := shamt.isLt; have h5 := funct.isLt
  rw [rtOf, toNat_slice, encodeR_toNat]; omega
@[simp] theorem rdOf_encodeR : rdOf (encodeR rs rt rd shamt funct) = rd := by
  apply BitVec.eq_of_toNat_eq
  have h3 := rd.isLt; have h4 := shamt.isLt; have h5 := funct.isLt
  rw [rdOf, toNat_slice, encodeR_toNat]; omega
@[simp] theorem shamtOf_encodeR : shamtOf (encodeR rs rt rd shamt funct) = shamt := by
  apply BitVec.eq_of_toNat_eq
  have h4 := shamt.isLt; have h5 := funct.isLt
  rw [shamtOf, toNat_slice, encodeR_toNat]; omega
@[simp] theorem functOf_encodeR : functOf (encodeR rs rt rd shamt funct) = funct := by
  apply BitVec.eq_of_toNat_eq
  have h5 := funct.isLt
  rw [functOf, toNat_slice, encodeR_toNat]; omega

@[simp] theorem opcodeOf_encodeI : opcodeOf (encodeI opc rs rt imm) = opc := by
  apply BitVec.eq_of_toNat_eq
  have h1 := opc.isLt; have h2 := rs.isLt; have h3 := rt.isLt; have h4 := imm.isLt
  rw [opcodeOf, toNat_slice, encodeI_toNat]; omega
@[simp] theorem rsOf_encodeI : rsOf (encodeI opc rs rt imm) = rs := by
  apply BitVec.eq_of_toNat_eq
  have h2 := rs.isLt; have h3 := rt.isLt; have h4 := imm.isLt
  rw [rsOf, toNat_slice, encodeI_toNat]; omega
@[simp] theorem rtOf_encodeI : rtOf (encodeI opc rs rt imm) = rt := by
  apply BitVec.eq_of_toNat_eq
  have h3 := rt.isLt; have h4 := imm.isLt
  rw [rtOf, toNat_slice, encodeI_toNat]; omega
@[simp] theorem immOf_encodeI : immOf (encodeI opc rs rt imm) = imm := by
  apply BitVec.eq_of_toNat_eq
  have h4 := imm.isLt
  rw [immOf, toNat_slice, encodeI_toNat]; omega

@[simp] theorem opcodeOf_encodeJ : opcodeOf (encodeJ opc target) = opc := by
  apply BitVec.eq_of_toNat_eq
  have h1 := opc.isLt; have h2 := target.isLt
  rw [opcodeOf, toNat_slice, encodeJ_toNat]; omega
@[simp] theorem targetOf_encodeJ : targetOf (encodeJ opc target) = target := by
  apply BitVec.eq_of_toNat_eq
  have h2 := target.isLt
  rw [targetOf, toNat_slice, encodeJ_toNat]; omega

end Slices

/-! ### A word is the layout of its own slices -/

theorem encodeR_slices {w : Word} (h : opcodeOf w = 0x00#6) :
    encodeR (rsOf w) (rtOf w) (rdOf w) (shamtOf w) (functOf w) = w := by
  apply BitVec.eq_of_toNat_eq
  have h0 := congrArg BitVec.toNat h
  have hw := w.isLt
  rw [encodeR_toNat]
  simp only [opcodeOf, rsOf, rtOf, rdOf, shamtOf, functOf, toNat_slice, BitVec.toNat_ofNat] at h0 ⊢
  omega

theorem encodeI_slices (w : Word) : encodeI (opcodeOf w) (rsOf w) (rtOf w) (immOf w) = w := by
  apply BitVec.eq_of_toNat_eq
  have hw := w.isLt
  rw [encodeI_toNat]
  simp only [opcodeOf, rsOf, rtOf, immOf, toNat_slice]
  omega

theorem encodeJ_slices (w : Word) : encodeJ (opcodeOf w) (targetOf w) = w := by
  apply BitVec.eq_of_toNat_eq
  have hw := w.isLt
  rw [encodeJ_toNat]
  simp only [opcodeOf, targetOf, toNat_slice]
  omega

/-! ### What the tables know -/

theorem classifier_r {opc : Opcode} (h : classifier opc = some .r) : opc = 0x00#6 := by
  revert opc; decide

theorem classifier_j {opc : Opcode} (h : classifier opc = some .j) : opc = 0x02#6 ∨ opc = 0x03#6 := by
  revert opc; decide

theorem functTable_formatClass {funct : Funct} {m : Mnemonic} (h : functTable funct = some m) :
    m.formatClass = .r := by
  revert funct; cases m <;> decide

theorem regimmTable_formatClass {rt : Reg} {m : Mnemonic} (h : regimmTable rt = some m) : m.formatClass = .i := by
  revert rt; cases m <;> decide

theorem iOpTable_formatClass {opc : Opcode} {m : Mnemonic} (h : iOpTable opc = some m) : m.formatClass = .i := by
  revert opc; cases m <;> decide

/-- What a resolved word can be: its format is the word's own fields in the variant of its class, and its mnemonic is the
one the class's table has for the selecting field. -/
theorem resolve_cases {w : Word} {m : Mnemonic} {f : Format} (h : resolve w = some (m, f)) :
    (opcodeOf w = 0x00#6 ∧ f = formatR w ∧
      ((functOf w = 0#6 ∧ shamtOf w = 0#5 ∧ m = .nop) ∨
        (¬(functOf w = 0#6 ∧ shamtOf w = 0#5) ∧ functTable (functOf w) = some m))) ∨
    (classifier (opcodeOf w) = some .i ∧ f = formatI w ∧
      ((opcodeOf w = 0x01#6 ∧ regimmTable (rtOf w) = some m) ∨
        (opcodeOf w ≠ 0x01#6 ∧ (opcodeOf w = 0x06#6 ∨ opcodeOf w = 0x07#6 → rtOf w = 0#5) ∧
          iOpTable (opcodeOf w) = some m))) ∨
    (f = formatJ w ∧ jTable (opcodeOf w) = some m) := by
  unfold resolve at h
  split at h
  · cases h
  · rename_i hc
    refine .inl ⟨classifier_r hc, ?_⟩
    unfold resolveR at h
    split at h
    · rename_i hn
      cases h
      exact ⟨rfl, .inl ⟨hn.1, hn.2, rfl⟩⟩
    · rename_i hn
      obtain ⟨m', hm, he⟩ := Option.map_eq_some_iff.mp h
      cases he
      exact ⟨rfl, .inr ⟨hn, hm⟩⟩
  · rename_i hc
    refine .inr (.inl ⟨hc, ?_⟩)
    unfold resolveI at h
    split at h
    · rename_i h1
      obtain ⟨m', hm, he⟩ := Option.map_eq_some_iff.mp h
      cases he
      exact ⟨rfl, .inl ⟨h1, hm⟩⟩
    · rename_i h1
      split at h
      · cases h
      · rename_i h67
        obtain ⟨m', hm, he⟩ := Option.map_eq_some_iff.mp h
        cases he
        exact ⟨rfl, .inr ⟨h1, fun h' => Classical.byContradiction fun hr => h67 ⟨h', hr⟩, hm⟩⟩
  · refine .inr (.inr ?_)
    obtain ⟨m', hm, he⟩ := Option.map_eq_some_iff.mp h
    cases he
    exact ⟨rfl, hm⟩

/-- The record of a word, from its resolution (40_dispatch.md R104). -/
theorem decodeRecord_eq_some {c : Config} {w : Word} {I : Instruction} :
    decodeRecord c w = some I ↔
      I.mnem ∈ c.recognized ∧ I.raw = w ∧ resolve w = some (I.mnem, I.fmt) := by
  unfold decodeRecord Config.recognizes
  obtain ⟨raw, mnem, fmt⟩ := I
  cases h : resolve w with
  | none => simp
  | some p =>
    obtain ⟨m, f⟩ := p
    by_cases hm : m ∈ c.recognized
    · simp only [hm, decide_true, if_true, Option.some.injEq, Instruction.mk.injEq, Prod.mk.injEq]
      constructor
      · rintro ⟨rfl, rfl, rfl⟩; exact ⟨hm, rfl, rfl, rfl⟩
      · rintro ⟨-, rfl, rfl, rfl⟩; exact ⟨rfl, rfl, rfl⟩
    · simp only [hm, decide_false, Option.some.injEq, Prod.mk.injEq]
      constructor
      · intro h'; cases h'
      · rintro ⟨h1, -, rfl, -⟩; exact absurd h1 hm

theorem mem_default_recognized (m : Mnemonic) : m ∈ Config.default.recognized := by
  cases m <;> decide

end Sys2Proof
end

