-- ==== Sys2Proof/Laws/State.lean ====
section
/-! SUPPORT. One lemma per field per update of the state, each true by unfolding. -/

namespace Sys2Proof.Machine

@[simp] theorem State.conclude_cfg (r : Option Instruction) (s : State) : (s.conclude r).cfg = s.cfg := rfl
@[simp] theorem State.conclude_word (r : Option Instruction) (s : State) : (s.conclude r).word = s.word := rfl
@[simp] theorem State.conclude_supply (r : Option Instruction) (s : State) : (s.conclude r).supply = s.supply := rfl
@[simp] theorem State.conclude_result (r : Option Instruction) (s : State) : (s.conclude r).result = r := rfl
@[simp] theorem State.conclude_emitted (r : Option Instruction) (s : State) :
    (s.conclude r).emitted = s.emitted ++ [r] := rfl

theorem State.present_nil {s : State} (h : s.supply = []) : s.present = s := by
  simp [State.present, h]

theorem State.present_cons {s : State} {w : Word} {rest : List Word} (h : s.supply = w :: rest) :
    s.present = { s with word := w, supply := rest } := by
  simp [State.present, h]

@[simp] theorem State.present_cfg (s : State) : s.present.cfg = s.cfg := by
  unfold State.present; split <;> rfl
@[simp] theorem State.present_result (s : State) : s.present.result = s.result := by
  unfold State.present; split <;> rfl
@[simp] theorem State.present_emitted (s : State) : s.present.emitted = s.emitted := by
  unfold State.present; split <;> rfl
@[simp] theorem State.present_supply (s : State) : s.present.supply = s.supply.tail := by
  unfold State.present; split <;> simp [*]
@[simp] theorem State.present_word (s : State) : s.present.word = s.nextWord := rfl

@[simp] theorem State.withFetchWord_cfg (s : State) (nbits w : Nat) : (s.withFetchWord nbits w).cfg = s.cfg := rfl
@[simp] theorem State.withFetchWord_word (s : State) (nbits w : Nat) : (s.withFetchWord nbits w).word = s.word := rfl
@[simp] theorem State.withFetchWord_result (s : State) (nbits w : Nat) :
    (s.withFetchWord nbits w).result = s.result := rfl
@[simp] theorem State.withFetchWord_emitted (s : State) (nbits w : Nat) :
    (s.withFetchWord nbits w).emitted = s.emitted := rfl
@[simp] theorem State.withFetchWord_supply (s : State) (nbits w : Nat) :
    (s.withFetchWord nbits w).supply = tableWord nbits w :: s.supply := rfl

end Sys2Proof.Machine
end

