-- ==== Sys2Proof/Laws/Ops.lean ====
section
/-! SUPPORT. What the shared operations and `exec` do, said once. -/

namespace Sys2Proof.Machine

/-- The fields an instruction puts into its record. -/
def instrFormat : Instr → Format
  | .nop rs rt rd => .r rs rt rd 0#5 0x00#6
  | .sll rs rt rd shamt => .r rs rt rd shamt 0x00#6
  | .srl rs rt rd shamt => .r rs rt rd shamt 0x02#6
  | .sra rs rt rd shamt => .r rs rt rd shamt 0x03#6
  | .sllv rs rt rd shamt => .r rs rt rd shamt 0x04#6
  | .srlv rs rt rd shamt => .r rs rt rd shamt 0x06#6
  | .srav rs rt rd shamt => .r rs rt rd shamt 0x07#6
  | .jr rs rt rd shamt => .r rs rt rd shamt 0x08#6
  | .jalr rs rt rd shamt => .r rs rt rd shamt 0x09#6
  | .syscall rs rt rd shamt => .r rs rt rd shamt 0x0C#6
  | .mfhi rs rt rd shamt => .r rs rt rd shamt 0x10#6
  | .mflo rs rt rd shamt => .r rs rt rd shamt 0x12#6
  | .mult rs rt rd shamt => .r rs rt rd shamt 0x18#6
  | .multu rs rt rd shamt => .r rs rt rd shamt 0x19#6
  | .div rs rt rd shamt => .r rs rt rd shamt 0x1A#6
  | .divu rs rt rd shamt => .r rs rt rd shamt 0x1B#6
  | .add rs rt rd shamt => .r rs rt rd shamt 0x20#6
  | .addu rs rt rd shamt => .r rs rt rd shamt 0x21#6
  | .sub rs rt rd shamt => .r rs rt rd shamt 0x22#6
  | .subu rs rt rd shamt => .r rs rt rd shamt 0x23#6
  | .and rs rt rd shamt => .r rs rt rd shamt 0x24#6
  | .or rs rt rd shamt => .r rs rt rd shamt 0x25#6
  | .xor rs rt rd shamt => .r rs rt rd shamt 0x26#6
  | .nor rs rt rd shamt => .r rs rt rd shamt 0x27#6
  | .slt rs rt rd shamt => .r rs rt rd shamt 0x2A#6
  | .sltu rs rt rd shamt => .r rs rt rd shamt 0x2B#6
  | .bltz rs imm => .i rs 0x00#5 imm
  | .bgez rs imm => .i rs 0x01#5 imm
  | .bltzal rs imm => .i rs 0x10#5 imm
  | .bgezal rs imm => .i rs 0x11#5 imm
  | .beq rs rt imm => .i rs rt imm
  | .bne rs rt imm => .i rs rt imm
  | .blez rs imm => .i rs 0x00#5 imm
  | .bgtz rs imm => .i rs 0x00#5 imm
  | .addi rs rt imm => .i rs rt imm
  | .addiu rs rt imm => .i rs rt imm
  | .slti rs rt imm => .i rs rt imm
  | .sltiu rs rt imm => .i rs rt imm
  | .andi rs rt imm => .i rs rt imm
  | .ori rs rt imm => .i rs rt imm
  | .xori rs rt imm => .i rs rt imm
  | .lui rs rt imm => .i rs rt imm
  | .lb rs rt imm => .i rs rt imm
  | .lh rs rt imm => .i rs rt imm
  | .lw rs rt imm => .i rs rt imm
  | .lbu rs rt imm => .i rs rt imm
  | .lhu rs rt imm => .i rs rt imm
  | .sb rs rt imm => .i rs rt imm
  | .sh rs rt imm => .i rs rt imm
  | .sw rs rt imm => .i rs rt imm
  | .j target => .j target
  | .jal target => .j target

/-- Every instruction does one thing: it emits its own record. Cite this instead of unfolding the meanings. -/
theorem exec_eq_emit (i : Instr) (s : State) : exec i s = s.emit i.mnemonic (instrFormat i) := by
  cases i <;> rfl

/-- `emit` always answers a next state. -/
theorem emit_eq (m : Mnemonic) (f : Format) (s : State) :
    s.emit m f = .next (s.conclude (s.assemble m f)) := rfl

theorem assemble_of_mem {m : Mnemonic} {f : Format} {s : State} (h : m ∈ s.cfg.recognized) :
    s.assemble m f = some { raw := s.word, mnem := m, fmt := f } := by
  simp [State.assemble, Config.recognizes, h]

theorem assemble_of_not_mem {m : Mnemonic} {f : Format} {s : State} (h : m ∉ s.cfg.recognized) :
    s.assemble m f = none := by
  simp [State.assemble, Config.recognizes, h]

/-- All that `emit` does, in the terms claims use. -/
theorem emit_emits (m : Mnemonic) (f : Format) (s : State) : Emits m f s (s.conclude (s.assemble m f)) := by
  refine ⟨?_, rfl, rfl, rfl, rfl⟩
  by_cases h : m ∈ s.cfg.recognized
  · simp [assemble_of_mem h, h]
  · simp [assemble_of_not_mem h, h]

end Sys2Proof.Machine
end

