-- ==== Sys2Proof/Laws/Resolve.lean ====
section
/-! SUPPORT. What the resolvers answer, from the selecting fields alone; the record that follows from it; the four mask
shapes of the opcode table as fields; and one step of a run. -/

namespace Sys2Proof

/-! ### From the opcode to the resolver -/

theorem opcode_cases (opc : Opcode) :
    classifier opc = none ∨ opc = 0x00#6 ∨ classifier opc = some .i ∨ opc = 0x02#6 ∨ opc = 0x03#6 := by
  revert opc; decide

theorem resolve_of_opcode_zero {w : Word} (h : opcodeOf w = 0x00#6) : resolve w = resolveR w := by
  unfold resolve; rw [h]; rfl

theorem resolve_of_class_i {w : Word} (h : classifier (opcodeOf w) = some .i) : resolve w = resolveI (opcodeOf w) w := by
  unfold resolve; rw [h]

theorem resolve_of_class_j {w : Word} (h : classifier (opcodeOf w) = some .j) : resolve w = resolveJ (opcodeOf w) w := by
  unfold resolve; rw [h]

theorem resolve_of_class_none {w : Word} (h : classifier (opcodeOf w) = none) : resolve w = none := by
  unfold resolve; rw [h]

/-! ### The resolution of each shape of row -/

theorem resolve_nop_row {w : Word} (h0 : opcodeOf w = 0x00#6) (hf : functOf w = 0x00#6) (hs : shamtOf w = 0#5) :
    resolve w = some (.nop, formatR w) := by
  rw [resolve_of_opcode_zero h0]
  unfold resolveR
  rw [if_pos ⟨hf, hs⟩]

theorem resolve_funct_row {w : Word} {m : Mnemonic} (h0 : opcodeOf w = 0x00#6)
    (hn : ¬(functOf w = 0x00#6 ∧ shamtOf w = 0#5)) (hm : functTable (functOf w) = some m) :
    resolve w = some (m, formatR w) := by
  rw [resolve_of_opcode_zero h0]
  unfold resolveR
  rw [if_neg hn, hm]; rfl

theorem resolve_regimm_row {w : Word} {m : Mnemonic} (h1 : opcodeOf w = 0x01#6) (hm : regimmTable (rtOf w) = some m) :
    resolve w = some (m, formatI w) := by
  rw [resolve_of_class_i (by rw [h1]; rfl)]
  unfold resolveI
  rw [if_pos h1, hm]; rfl

theorem resolve_opcode_row {w : Word} {m : Mnemonic} (hc : classifier (opcodeOf w) = some .i) (h1 : opcodeOf w ≠ 0x01#6)
    (h67 : opcodeOf w = 0x06#6 ∨ opcodeOf w = 0x07#6 → rtOf w = 0#5) (hm : iOpTable (opcodeOf w) = some m) :
    resolve w = some (m, formatI w) := by
  rw [resolve_of_class_i hc]
  unfold resolveI
  rw [if_neg h1, if_neg fun h => h.2 (h67 h.1), hm]; rfl

theorem resolve_jump_row {w : Word} {m : Mnemonic} (hc : classifier (opcodeOf w) = some .j)
    (hm : jTable (opcodeOf w) = some m) : resolve w = some (m, formatJ w) := by
  rw [resolve_of_class_j hc]
  unfold resolveJ
  rw [hm]; rfl

/-! ### From the resolution to the record and the typed instruction -/

theorem decodeRecord_of_resolve {c : Config} {w : Word} {m : Mnemonic} {f : Format} (h : resolve w = some (m, f)) :
    decodeRecord c w = if m ∈ c.recognized then some ⟨w, m, f⟩ else none := by
  unfold decodeRecord; rw [h]; simp [Config.recognizes]

theorem decodeRecord_of_resolve_none {c : Config} {w : Word} (h : resolve w = none) : decodeRecord c w = none := by
  unfold decodeRecord; rw [h]

theorem decode_of_resolve_none {w : Word} (h : resolve w = none) : decode w = none := by
  unfold decode; rw [h]

/-! ### The four mask shapes of the opcode table -/

theorem and_opcode_mask (w : Word) : w &&& 0xFC000000#32 = opcodeOf w ++ 0#26 := by
  apply BitVec.eq_of_getLsbD_eq; intro i hi
  rw [BitVec.getLsbD_append, BitVec.getLsbD_and]
  interval_cases i <;> simp [opcodeOf]

theorem and_funct_mask (w : Word) : w &&& 0xFC00003F#32 = opcodeOf w ++ 0#20 ++ functOf w := by
  apply BitVec.eq_of_getLsbD_eq; intro i hi
  rw [BitVec.getLsbD_append, BitVec.getLsbD_append, BitVec.getLsbD_and]
  interval_cases i <;> simp [opcodeOf, functOf]

theorem and_nop_mask (w : Word) : w &&& 0xFC0007FF#32 = opcodeOf w ++ 0#15 ++ shamtOf w ++ functOf w := by
  apply BitVec.eq_of_getLsbD_eq; intro i hi
  rw [BitVec.getLsbD_append, BitVec.getLsbD_append, BitVec.getLsbD_append, BitVec.getLsbD_and]
  interval_cases i <;> simp [opcodeOf, shamtOf, functOf]

theorem and_selector_mask (w : Word) : w &&& 0xFC1F0000#32 = opcodeOf w ++ 0#5 ++ rtOf w ++ 0#16 := by
  apply BitVec.eq_of_getLsbD_eq; intro i hi
  rw [BitVec.getLsbD_append, BitVec.getLsbD_append, BitVec.getLsbD_append, BitVec.getLsbD_and]
  interval_cases i <;> simp [opcodeOf, rtOf]

namespace Machine

/-- One step of a run that goes on. -/
theorem run_succ_of_next {n : Nat} {s t : State} (h : step s = .next t) :
    Sys2Proof.core.run (n + 1) s = Sys2Proof.core.run n t := by
  have e : Sys2Proof.core.step s = .next t := h
  simp only [Host.Core.run]
  rw [e]

end Machine

end Sys2Proof
end

