-- ==== Sys2Proof/Laws/Counting.lean ====
section
/-! SUPPORT. Counting words by their fields. Cite these lemmas rather than let a tactic compare two filtered sets of words:
such a comparison unfolds into the list of all 2^32 words. -/

namespace Sys2Proof

theorem card_bitVec (n : Nat) : Fintype.card (BitVec n) = 2 ^ n := by
  rw [← Fintype.card_fin (2 ^ n)]
  exact Fintype.card_congr ⟨BitVec.toFin, BitVec.ofFin, fun _ => rfl, fun _ => rfl⟩

theorem card_words : (Finset.univ : Finset Word).card = 4294967296 := by
  rw [Finset.card_univ, card_bitVec]; norm_num

theorem card_words_congr {p q : Word → Prop} [DecidablePred p] [DecidablePred q] (h : ∀ w, p w ↔ q w) :
    (Finset.univ.filter p).card = (Finset.univ.filter q).card := by
  rw [Finset.filter_congr fun w _ => h w]

theorem card_words_compl {p q : Word → Prop} [DecidablePred p] [DecidablePred q] (hq : ∀ w, q w ↔ ¬p w) {n : Nat}
    (h : (Finset.univ.filter p).card = n) : (Finset.univ.filter q).card = 4294967296 - n := by
  have h1 : (Finset.univ.filter p).card + (Finset.univ.filter fun w => ¬p w).card = (Finset.univ : Finset Word).card :=
    Finset.card_filter_add_card_filter_not (s := (Finset.univ : Finset Word)) p
  rw [card_words, h] at h1
  rw [card_words_congr hq]
  exact (Nat.sub_eq_of_eq_add' h1.symm).symm

/-- An opcode leaves 26 bits free. -/
theorem card_words_opcode (opcodes : Finset Opcode) :
    (Finset.univ.filter fun w : Word => opcodeOf w ∈ opcodes).card = opcodes.card * 2 ^ 26 := by
  rw [← card_bitVec 26, ← Finset.card_univ, ← Finset.card_product]
  refine Finset.card_nbij' (fun w => (opcodeOf w, targetOf w)) (fun p => encodeJ p.1 p.2) ?_ ?_ ?_ ?_
  · intro w hw; simpa using hw
  · intro p hp; simpa using hp
  · intro w _; exact encodeJ_slices w
  · intro p _; simp

/-- An opcode and an rt leave 21 bits free. -/
theorem card_words_selector (pairs : Finset (Opcode × Reg)) :
    (Finset.univ.filter fun w : Word => (opcodeOf w, rtOf w) ∈ pairs).card = pairs.card * 2 ^ 21 := by
  have h : (2 : Nat) ^ 21 = Fintype.card (Reg × Imm) := by rw [Fintype.card_prod, card_bitVec, card_bitVec]; norm_num
  rw [h, ← Finset.card_univ, ← Finset.card_product]
  refine Finset.card_nbij' (fun w => ((opcodeOf w, rtOf w), (rsOf w, immOf w)))
    (fun p => encodeI p.1.1 p.2.1 p.1.2 p.2.2) ?_ ?_ ?_ ?_
  · intro w hw; simpa using hw
  · intro p hp; simpa using hp
  · intro w _; exact encodeI_slices w
  · intro p _; simp

/-- Opcode 0, a function code and a shift amount leave 15 bits free. -/
theorem card_words_funct (pairs : Finset (Funct × Shamt)) :
    (Finset.univ.filter fun w : Word => opcodeOf w = 0x00#6 ∧ (functOf w, shamtOf w) ∈ pairs).card = pairs.card * 2 ^ 15 := by
  have h : (2 : Nat) ^ 15 = Fintype.card (Reg × Reg × Reg) := by
    rw [Fintype.card_prod, Fintype.card_prod, card_bitVec]; norm_num
  rw [h, ← Finset.card_univ, ← Finset.card_product]
  refine Finset.card_nbij' (fun w => ((functOf w, shamtOf w), (rsOf w, rtOf w, rdOf w)))
    (fun p => encodeR p.2.1 p.2.2.1 p.2.2.2 p.1.2 p.1.1) ?_ ?_ ?_ ?_
  · intro w hw
    have hw' : opcodeOf w = 0x00#6 ∧ (functOf w, shamtOf w) ∈ pairs := by simpa using hw
    simpa using hw'.2
  · intro p hp; simpa using hp
  · intro w hw
    have hw' : opcodeOf w = 0x00#6 ∧ (functOf w, shamtOf w) ∈ pairs := by simpa using hw
    exact encodeR_slices hw'.1
  · intro p _; simp

end Sys2Proof
end

