-- ==== Sys2Proof/Laws/PerInstr.lean ====
section
/-! SUPPORT. The family EncodingClass: a statement about each instruction as syntax, one lemma per constructor. -/

namespace Sys2Proof.Laws.EncodingClass

/-- The opcode of an instruction's encoding is classified as the format of its mnemonic (30_encoding.md R66, 10_state.md R28). -/
def Statement (i : Instr) : Prop := classifier (opcodeOf (encode i)) = some i.mnemonic.formatClass

theorem of_opcode {i : Instr} (opc : Opcode) (h : opcodeOf (encode i) = opc)
    (hc : classifier opc = some i.mnemonic.formatClass) : Statement i :=
  (congrArg classifier h).trans hc

theorem nop (rs rt rd : Reg) : Statement (.nop rs rt rd) :=
  of_opcode 0x00#6 (opcodeOf_encodeR _ _ _ _ _) rfl
theorem sll (rs rt rd : Reg) (shamt : Shamt) : Statement (.sll rs rt rd shamt) :=
  of_opcode 0x00#6 (opcodeOf_encodeR _ _ _ _ _) rfl
theorem srl (rs rt rd : Reg) (shamt : Shamt) : Statement (.srl rs rt rd shamt) :=
  of_opcode 0x00#6 (opcodeOf_encodeR _ _ _ _ _) rfl
theorem sra (rs rt rd : Reg) (shamt : Shamt) : Statement (.sra rs rt rd shamt) :=
  of_opcode 0x00#6 (opcodeOf_encodeR _ _ _ _ _) rfl
theorem sllv (rs rt rd : Reg) (shamt : Shamt) : Statement (.sllv rs rt rd shamt) :=
  of_opcode 0x00#6 (opcodeOf_encodeR _ _ _ _ _) rfl
theorem srlv (rs rt rd : Reg) (shamt : Shamt) : Statement (.srlv rs rt rd shamt) :=
  of_opcode 0x00#6 (opcodeOf_encodeR _ _ _ _ _) rfl
theorem srav (rs rt rd : Reg) (shamt : Shamt) : Statement (.srav rs rt rd shamt) :=
  of_opcode 0x00#6 (opcodeOf_encodeR _ _ _ _ _) rfl
theorem jr (rs rt rd : Reg) (shamt : Shamt) : Statement (.jr rs rt rd shamt) :=
  of_opcode 0x00#6 (opcodeOf_encodeR _ _ _ _ _) rfl
theorem jalr (rs rt rd : Reg) (shamt : Shamt) : Statement (.jalr rs rt rd shamt) :=
  of_opcode 0x00#6 (opcodeOf_encodeR _ _ _ _ _) rfl
theorem syscall (rs rt rd : Reg) (shamt : Shamt) : Statement (.syscall rs rt rd shamt) :=
  of_opcode 0x00#6 (opcodeOf_encodeR _ _ _ _ _) rfl
theorem mfhi (rs rt rd : Reg) (shamt : Shamt) : Statement (.mfhi rs rt rd shamt) :=
  of_opcode 0x00#6 (opcodeOf_encodeR _ _ _ _ _) rfl
theorem mflo (rs rt rd : Reg) (shamt : Shamt) : Statement (.mflo rs rt rd shamt) :=
  of_opcode 0x00#6 (opcodeOf_encodeR _ _ _ _ _) rfl
theorem mult (rs rt rd : Reg) (shamt : Shamt) : Statement (.mult rs rt rd shamt) :=
  of_opcode 0x00#6 (opcodeOf_encodeR _ _ _ _ _) rfl
theorem multu (rs rt rd : Reg) (shamt : Shamt) : Statement (.multu rs rt rd shamt) :=
  of_opcode 0x00#6 (opcodeOf_encodeR _ _ _ _ _) rfl
theorem div (rs rt rd : Reg) (shamt : Shamt) : Statement (.div rs rt rd shamt) :=
  of_opcode 0x00#6 (opcodeOf_encodeR _ _ _ _ _) rfl
theorem divu (rs rt rd : Reg) (shamt : Shamt) : Statement (.divu rs rt rd shamt) :=
  of_opcode 0x00#6 (opcodeOf_encodeR _ _ _ _ _) rfl
theorem add (rs rt rd : Reg) (shamt : Shamt) : Statement (.add rs rt rd shamt) :=
  of_opcode 0x00#6 (opcodeOf_encodeR _ _ _ _ _) rfl
theorem addu (rs rt rd : Reg) (shamt : Shamt) : Statement (.addu rs rt rd shamt) :=
  of_opcode 0x00#6 (opcodeOf_encodeR _ _ _ _ _) rfl
theorem sub (rs rt rd : Reg) (shamt : Shamt) : Statement (.sub rs rt rd shamt) :=
  of_opcode 0x00#6 (opcodeOf_encodeR _ _ _ _ _) rfl
theorem subu (rs rt rd : Reg) (shamt : Shamt) : Statement (.subu rs rt rd shamt) :=
  of_opcode 0x00#6 (opcodeOf_encodeR _ _ _ _ _) rfl
theorem and (rs rt rd : Reg) (shamt : Shamt) : Statement (.and rs rt rd shamt) :=
  of_opcode 0x00#6 (opcodeOf_encodeR _ _ _ _ _) rfl
theorem or (rs rt rd : Reg) (shamt : Shamt) : Statement (.or rs rt rd shamt) :=
  of_opcode 0x00#6 (opcodeOf_encodeR _ _ _ _ _) rfl
theorem xor (rs rt rd : Reg) (shamt : Shamt) : Statement (.xor rs rt rd shamt) :=
  of_opcode 0x00#6 (opcodeOf_encodeR _ _ _ _ _) rfl
theorem nor (rs rt rd : Reg) (shamt : Shamt) : Statement (.nor rs rt rd shamt) :=
  of_opcode 0x00#6 (opcodeOf_encodeR _ _ _ _ _) rfl
theorem slt (rs rt rd : Reg) (shamt : Shamt) : Statement (.slt rs rt rd shamt) :=
  of_opcode 0x00#6 (opcodeOf_encodeR _ _ _ _ _) rfl
theorem sltu (rs rt rd : Reg) (shamt : Shamt) : Statement (.sltu rs rt rd shamt) :=
  of_opcode 0x00#6 (opcodeOf_encodeR _ _ _ _ _) rfl
theorem bltz (rs : Reg) (imm : Imm) : Statement (.bltz rs imm) :=
  of_opcode 0x01#6 (opcodeOf_encodeI _ _ _ _) rfl
theorem bgez (rs : Reg) (imm : Imm) : Statement (.bgez rs imm) :=
  of_opcode 0x01#6 (opcodeOf_encodeI _ _ _ _) rfl
theorem bltzal (rs : Reg) (imm : Imm) : Statement (.bltzal rs imm) :=
  of_opcode 0x01#6 (opcodeOf_encodeI _ _ _ _) rfl
theorem bgezal (rs : Reg) (imm : Imm) : Statement (.bgezal rs imm) :=
  of_opcode 0x01#6 (opcodeOf_encodeI _ _ _ _) rfl
theorem beq (rs rt : Reg) (imm : Imm) : Statement (.beq rs rt imm) :=
  of_opcode 0x04#6 (opcodeOf_encodeI _ _ _ _) rfl
theorem bne (rs rt : Reg) (imm : Imm) : Statement (.bne rs rt imm) :=
  of_opcode 0x05#6 (opcodeOf_encodeI _ _ _ _) rfl
theorem blez (rs : Reg) (imm : Imm) : Statement (.blez rs imm) :=
  of_opcode 0x06#6 (opcodeOf_encodeI _ _ _ _) rfl
theorem bgtz (rs : Reg) (imm : Imm) : Statement (.bgtz rs imm) :=
  of_opcode 0x07#6 (opcodeOf_encodeI _ _ _ _) rfl
theorem addi (rs rt : Reg) (imm : Imm) : Statement (.addi rs rt imm) :=
  of_opcode 0x08#6 (opcodeOf_encodeI _ _ _ _) rfl
theorem addiu (rs rt : Reg) (imm : Imm) : Statement (.addiu rs rt imm) :=
  of_opcode 0x09#6 (opcodeOf_encodeI _ _ _ _) rfl
theorem slti (rs rt : Reg) (imm : Imm) : Statement (.slti rs rt imm) :=
  of_opcode 0x0A#6 (opcodeOf_encodeI _ _ _ _) rfl
theorem sltiu (rs rt : Reg) (imm : Imm) : Statement (.sltiu rs rt imm) :=
  of_opcode 0x0B#6 (opcodeOf_encodeI _ _ _ _) rfl
theorem andi (rs rt : Reg) (imm : Imm) : Statement (.andi rs rt imm) :=
  of_opcode 0x0C#6 (opcodeOf_encodeI _ _ _ _) rfl
theorem ori (rs rt : Reg) (imm : Imm) : Statement (.ori rs rt imm) :=
  of_opcode 0x0D#6 (opcodeOf_encodeI _ _ _ _) rfl
theorem xori (rs rt : Reg) (imm : Imm) : Statement (.xori rs rt imm) :=
  of_opcode 0x0E#6 (opcodeOf_encodeI _ _ _ _) rfl
theorem lui (rs rt : Reg) (imm : Imm) : Statement (.lui rs rt imm) :=
  of_opcode 0x0F#6 (opcodeOf_encodeI _ _ _ _) rfl
theorem lb (rs rt : Reg) (imm : Imm) : Statement (.lb rs rt imm) :=
  of_opcode 0x20#6 (opcodeOf_encodeI _ _ _ _) rfl
theorem lh (rs rt : Reg) (imm : Imm) : Statement (.lh rs rt imm) :=
  of_opcode 0x21#6 (opcodeOf_encodeI _ _ _ _) rfl
theorem lw (rs rt : Reg) (imm : Imm) : Statement (.lw rs rt imm) :=
  of_opcode 0x23#6 (opcodeOf_encodeI _ _ _ _) rfl
theorem lbu (rs rt : Reg) (imm : Imm) : Statement (.lbu rs rt imm) :=
  of_opcode 0x24#6 (opcodeOf_encodeI _ _ _ _) rfl
theorem lhu (rs rt : Reg) (imm : Imm) : Statement (.lhu rs rt imm) :=
  of_opcode 0x25#6 (opcodeOf_encodeI _ _ _ _) rfl
theorem sb (rs rt : Reg) (imm : Imm) : Statement (.sb rs rt imm) :=
  of_opcode 0x28#6 (opcodeOf_encodeI _ _ _ _) rfl
theorem sh (rs rt : Reg) (imm : Imm) : Statement (.sh rs rt imm) :=
  of_opcode 0x29#6 (opcodeOf_encodeI _ _ _ _) rfl
theorem sw (rs rt : Reg) (imm : Imm) : Statement (.sw rs rt imm) :=
  of_opcode 0x2B#6 (opcodeOf_encodeI _ _ _ _) rfl
theorem j (target : Target) : Statement (.j target) :=
  of_opcode 0x02#6 (opcodeOf_encodeJ _ _) rfl
theorem jal (target : Target) : Statement (.jal target) :=
  of_opcode 0x03#6 (opcodeOf_encodeJ _ _) rfl

end Sys2Proof.Laws.EncodingClass
end

