-- ==== Sys2Proof/Tests/Slice0.lean ====
section
/-! SUPPORT. The model's own tests. Every expected value is written in the spec: the rules' encoding and example lines
(41_r_format.md, 42_i_format.md, 43_j_format.md) and the vectors of 95_test_vectors.md. None is the model's own answer.
At the end stands a witness for every obligation that has hypotheses. -/

namespace Sys2Proof.Tests

open Sys2Proof Sys2Proof.Machine

/-- The power-up state with a word, given as a number, presented next. -/
def fed (w : Nat) : State := State.reset.withFetchWord 32 w

/-- The power-up state with a sequence of words presented next. -/
def fedAll (ws : List Word) : State := { State.reset with supply := ws }

/-- The same with RECOGNIZED_SET narrowed to `addu` and `nop`. -/
def fedNarrow (ws : List Word) : State :=
  { State.reset with cfg := { recognized := [.addu, .nop], renderVerbose := true }, supply := ws }

/-- A state with another past and another RENDER_VERBOSE than `fedAll`. -/
def otherPast (ws : List Word) : State :=
  { cfg := { recognized := Mnemonic.all, renderVerbose := true }, word := 0xFFFFFFFF, result := none, supply := ws,
    emitted := [none] }

/-- The state after one step, if it goes on. -/
def after (s : State) : Option State :=
  match step s with
  | .next t => some t
  | _ => none

/-- What one step on a word shows: the format and the rendered line of its record, whose raw is the word. -/
def shows (w : Nat) (f : Format) (line : String) : Bool :=
  match after (fed w) with
  | none => false
  | some t => decide (t.result.map (fun I => (I.raw, I.fmt)) = some (BitVec.ofNat 32 w, f) ∧ t.line = some line)

/-! ### WellFormed: the one check, and an ill-formed term it refuses (30_encoding.md R68) -/

theorem test_wf_refuses_sll_by_zero : (Instr.sll 0 9 8 0).wf = false := by decide
theorem test_wf_accepts_sll_by_one : (Instr.sll 31 31 31 1).wf = true := by decide
/-- The words of the ill-formed term are those of `nop`, so its encoding does not decode to it. -/
theorem test_ill_formed_sll_decodes_as_nop : decode (encode (.sll 0 9 8 0)) = some (.nop 0 9 8) := by decide

/-! ### Decoding: each rule's example, written out bit by bit along the rule's encoding line -/

/-- R130: `000000 sssss ttttt ddddd 00000 000000`, `0x00000000`. -/
theorem test_decode_nop : decode 0b00000000000000000000000000000000#32 = some (.nop 0 0 0) := by decide
/-- R131: `000000 sssss ttttt ddddd hhhhh 000000`, `0x00094080`. -/
theorem test_decode_sll : decode 0b00000000000010010100000010000000#32 = some (.sll 0 9 8 2) := by decide
/-- R132: `000000 sssss ttttt ddddd hhhhh 000010`, `0x000947c2`. -/
theorem test_decode_srl : decode 0b00000000000010010100011111000010#32 = some (.srl 0 9 8 31) := by decide
/-- R133: `000000 sssss ttttt ddddd hhhhh 000011`, `0x00094043`. -/
theorem test_decode_sra : decode 0b00000000000010010100000001000011#32 = some (.sra 0 9 8 1) := by decide
/-- R134: `000000 sssss ttttt ddddd hhhhh 000100`, `0x01494004`. -/
theorem test_decode_sllv : decode 0b00000001010010010100000000000100#32 = some (.sllv 10 9 8 0) := by decide
/-- R135: `000000 sssss ttttt ddddd hhhhh 000110`, `0x01494006`. -/
theorem test_decode_srlv : decode 0b00000001010010010100000000000110#32 = some (.srlv 10 9 8 0) := by decide
/-- R136: `000000 sssss ttttt ddddd hhhhh 000111`, `0x01494007`. -/
theorem test_decode_srav : decode 0b00000001010010010100000000000111#32 = some (.srav 10 9 8 0) := by decide
/-- R137: `000000 sssss ttttt ddddd hhhhh 001000`, `0x03e00008`. -/
theorem test_decode_jr : decode 0b00000011111000000000000000001000#32 = some (.jr 31 0 0 0) := by decide
/-- R138: `000000 sssss ttttt ddddd hhhhh 001001`, `0x0120f809`. -/
theorem test_decode_jalr : decode 0b00000001001000001111100000001001#32 = some (.jalr 9 0 31 0) := by decide
/-- R139: `000000 sssss ttttt ddddd hhhhh 001100`, `0x0000000c`. -/
theorem test_decode_syscall : decode 0b00000000000000000000000000001100#32 = some (.syscall 0 0 0 0) := by decide
/-- R140: `000000 sssss ttttt ddddd hhhhh 010000`, `0x00004010`. -/
theorem test_decode_mfhi : decode 0b00000000000000000100000000010000#32 = some (.mfhi 0 0 8 0) := by decide
/-- R141: `000000 sssss ttttt ddddd hhhhh 010010`, `0x00004812`. -/
theorem test_decode_mflo : decode 0b00000000000000000100100000010010#32 = some (.mflo 0 0 9 0) := by decide
/-- R142: `000000 sssss ttttt ddddd hhhhh 011000`, `0x00850018`. -/
theorem test_decode_mult : decode 0b00000000100001010000000000011000#32 = some (.mult 4 5 0 0) := by decide
/-- R143: `000000 sssss ttttt ddddd hhhhh 011001`, `0x00850019`. -/
theorem test_decode_multu : decode 0b00000000100001010000000000011001#32 = some (.multu 4 5 0 0) := by decide
/-- R144: `000000 sssss ttttt ddddd hhhhh 011010`, `0x0085001a`. -/
theorem test_decode_div : decode 0b00000000100001010000000000011010#32 = some (.div 4 5 0 0) := by decide
/-- R145: `000000 sssss ttttt ddddd hhhhh 011011`, `0x0085001b`. -/
theorem test_decode_divu : decode 0b00000000100001010000000000011011#32 = some (.divu 4 5 0 0) := by decide
/-- R146: `000000 sssss ttttt ddddd hhhhh 100000`, `0x012a4020`. -/
theorem test_decode_add : decode 0b00000001001010100100000000100000#32 = some (.add 9 10 8 0) := by decide
/-- R147: `000000 sssss ttttt ddddd hhhhh 100001`, `0x00220821`. -/
theorem test_decode_addu : decode 0b00000000001000100000100000100001#32 = some (.addu 1 2 1 0) := by decide
/-- R148: `000000 sssss ttttt ddddd hhhhh 100010`, `0x012a4022`. -/
theorem test_decode_sub : decode 0b00000001001010100100000000100010#32 = some (.sub 9 10 8 0) := by decide
/-- R149: `000000 sssss ttttt ddddd hhhhh 100011`, `0x012a4023`. -/
theorem test_decode_subu : decode 0b00000001001010100100000000100011#32 = some (.subu 9 10 8 0) := by decide
/-- R150: `000000 sssss ttttt ddddd hhhhh 100100`, `0x012a4024`. -/
theorem test_decode_and : decode 0b00000001001010100100000000100100#32 = some (.and 9 10 8 0) := by decide
/-- R151: `000000 sssss ttttt ddddd hhhhh 100101`, `0x012a4025`. -/
theorem test_decode_or : decode 0b00000001001010100100000000100101#32 = some (.or 9 10 8 0) := by decide
/-- R152: `000000 sssss ttttt ddddd hhhhh 100110`, `0x012a4026`. -/
theorem test_decode_xor : decode 0b00000001001010100100000000100110#32 = some (.xor 9 10 8 0) := by decide
/-- R153: `000000 sssss ttttt ddddd hhhhh 100111`, `0x012a4027`. -/
theorem test_decode_nor : decode 0b00000001001010100100000000100111#32 = some (.nor 9 10 8 0) := by decide
/-- R154: `000000 sssss ttttt ddddd hhhhh 101010`, `0x012a402a`. -/
theorem test_decode_slt : decode 0b00000001001010100100000000101010#32 = some (.slt 9 10 8 0) := by decide
/-- R155: `000000 sssss ttttt ddddd hhhhh 101011`, `0x012a402b`. -/
theorem test_decode_sltu : decode 0b00000001001010100100000000101011#32 = some (.sltu 9 10 8 0) := by decide
/-- R170: `000001 sssss 00000 iiiiiiiiiiiiiiii`, `0x0480fffd`. -/
theorem test_decode_bltz : decode 0b00000100100000001111111111111101#32 = some (.bltz 4 0xfffd) := by decide
/-- R171: `000001 sssss 00001 iiiiiiiiiiiiiiii`, `0x04810003`. -/
theorem test_decode_bgez : decode 0b00000100100000010000000000000011#32 = some (.bgez 4 0x3) := by decide
/-- R172: `000001 sssss 10000 iiiiiiiiiiiiiiii`, `0x04900010`. -/
theorem test_decode_bltzal : decode 0b00000100100100000000000000010000#32 = some (.bltzal 4 0x10) := by decide
/-- R173: `000001 sssss 10001 iiiiiiiiiiiiiiii`, `0x0491ffff`. -/
theorem test_decode_bgezal : decode 0b00000100100100011111111111111111#32 = some (.bgezal 4 0xffff) := by decide
/-- R174: `000100 sssss ttttt iiiiiiiiiiiiiiii`, `0x11090004`. -/
theorem test_decode_beq : decode 0b00010001000010010000000000000100#32 = some (.beq 8 9 0x4) := by decide
/-- R175: `000101 sssss ttttt iiiiiiiiiiiiiiii`, `0x1500fffe`. -/
theorem test_decode_bne : decode 0b00010101000000001111111111111110#32 = some (.bne 8 0 0xfffe) := by decide
/-- R176: `000110 sssss 00000 iiiiiiiiiiiiiiii`, `0x19000002`. -/
theorem test_decode_blez : decode 0b00011001000000000000000000000010#32 = some (.blez 8 0x2) := by decide
/-- R177: `000111 sssss 00000 iiiiiiiiiiiiiiii`, `0x1d000007`. -/
theorem test_decode_bgtz : decode 0b00011101000000000000000000000111#32 = some (.bgtz 8 0x7) := by decide
/-- R178: `001000 sssss ttttt iiiiiiiiiiiiiiii`, `0x23bdfff8`. -/
theorem test_decode_addi : decode 0b00100011101111011111111111111000#32 = some (.addi 29 29 0xfff8) := by decide
/-- R179: `001001 sssss ttttt iiiiiiiiiiiiiiii`, `0x2408000a`. -/
theorem test_decode_addiu : decode 0b00100100000010000000000000001010#32 = some (.addiu 0 8 0xa) := by decide
/-- R180: `001010 sssss ttttt iiiiiiiiiiiiiiii`, `0x29098000`. -/
theorem test_decode_slti : decode 0b00101001000010011000000000000000#32 = some (.slti 8 9 0x8000) := by decide
/-- R181: `001011 sssss ttttt iiiiiiiiiiiiiiii`, `0x2d090001`. -/
theorem test_decode_sltiu : decode 0b00101101000010010000000000000001#32 = some (.sltiu 8 9 0x1) := by decide
/-- R182: `001100 sssss ttttt iiiiiiiiiiiiiiii`, `0x310900ff`. -/
theorem test_decode_andi : decode 0b00110001000010010000000011111111#32 = some (.andi 8 9 0xff) := by decide
/-- R183: `001101 sssss ttttt iiiiiiiiiiiiiiii`, `0x35085678`. -/
theorem test_decode_ori : decode 0b00110101000010000101011001111000#32 = some (.ori 8 8 0x5678) := by decide
/-- R184: `001110 sssss ttttt iiiiiiiiiiiiiiii`, `0x3909ffff`. -/
theorem test_decode_xori : decode 0b00111001000010011111111111111111#32 = some (.xori 8 9 0xffff) := by decide
/-- R185: `001111 sssss ttttt iiiiiiiiiiiiiiii`, `0x3c081234`. -/
theorem test_decode_lui : decode 0b00111100000010000001001000110100#32 = some (.lui 0 8 0x1234) := by decide
/-- R186: `100000 sssss ttttt iiiiiiiiiiiiiiii`, `0x83a80000`. -/
theorem test_decode_lb : decode 0b10000011101010000000000000000000#32 = some (.lb 29 8 0x0) := by decide
/-- R187: `100001 sssss ttttt iiiiiiiiiiiiiiii`, `0x87a80002`. -/
theorem test_decode_lh : decode 0b10000111101010000000000000000010#32 = some (.lh 29 8 0x2) := by decide
/-- R188: `100011 sssss ttttt iiiiiiiiiiiiiiii`, `0x8fa90004`. -/
theorem test_decode_lw : decode 0b10001111101010010000000000000100#32 = some (.lw 29 9 0x4) := by decide
/-- R189: `100100 sssss ttttt iiiiiiiiiiiiiiii`, `0x9088ffff`. -/
theorem test_decode_lbu : decode 0b10010000100010001111111111111111#32 = some (.lbu 4 8 0xffff) := by decide
/-- R190: `100101 sssss ttttt iiiiiiiiiiiiiiii`, `0x94880010`. -/
theorem test_decode_lhu : decode 0b10010100100010000000000000010000#32 = some (.lhu 4 8 0x10) := by decide
/-- R191: `101000 sssss ttttt iiiiiiiiiiiiiiii`, `0xa0880001`. -/
theorem test_decode_sb : decode 0b10100000100010000000000000000001#32 = some (.sb 4 8 0x1) := by decide
/-- R192: `101001 sssss ttttt iiiiiiiiiiiiiiii`, `0xa4880002`. -/
theorem test_decode_sh : decode 0b10100100100010000000000000000010#32 = some (.sh 4 8 0x2) := by decide
/-- R193: `101011 sssss ttttt iiiiiiiiiiiiiiii`, `0xafbf001c`. -/
theorem test_decode_sw : decode 0b10101111101111110000000000011100#32 = some (.sw 29 31 0x1c) := by decide
/-- R210: `000010 tttttttttttttttttttttttttt`, `0x0bffffff`. -/
theorem test_decode_j : decode 0b00001011111111111111111111111111#32 = some (.j 0x3ffffff) := by decide
/-- R211: `000011 tttttttttttttttttttttttttt`, `0x0c100040`. -/
theorem test_decode_jal : decode 0b00001100000100000000000001000000#32 = some (.jal 0x100040) := by decide

/-! ### One step: each row's corner vector of 95_test_vectors.md section 3 (its rule's example where that section has no other) -/

theorem test_step_nop : shows 0x03fff800 (.r 31 31 31 0 0x0) "nop $31 $31 $31" = true := by decide
theorem test_step_sll : shows 0x03ffffc0 (.r 31 31 31 31 0x0) "sll $31 $31 $31" = true := by decide
theorem test_step_srl : shows 0x03ffffc2 (.r 31 31 31 31 0x2) "srl $31 $31 $31" = true := by decide
theorem test_step_sra : shows 0x03ffffc3 (.r 31 31 31 31 0x3) "sra $31 $31 $31" = true := by decide
theorem test_step_sllv : shows 0x03ffffc4 (.r 31 31 31 31 0x4) "sllv $31 $31 $31" = true := by decide
theorem test_step_srlv : shows 0x03ffffc6 (.r 31 31 31 31 0x6) "srlv $31 $31 $31" = true := by decide
theorem test_step_srav : shows 0x03ffffc7 (.r 31 31 31 31 0x7) "srav $31 $31 $31" = true := by decide
theorem test_step_jr : shows 0x03ffffc8 (.r 31 31 31 31 0x8) "jr $31 $31 $31" = true := by decide
theorem test_step_jalr : shows 0x03ffffc9 (.r 31 31 31 31 0x9) "jalr $31 $31 $31" = true := by decide
theorem test_step_syscall : shows 0x03ffffcc (.r 31 31 31 31 0xc) "syscall $31 $31 $31" = true := by decide
theorem test_step_mfhi : shows 0x03ffffd0 (.r 31 31 31 31 0x10) "mfhi $31 $31 $31" = true := by decide
theorem test_step_mflo : shows 0x03ffffd2 (.r 31 31 31 31 0x12) "mflo $31 $31 $31" = true := by decide
theorem test_step_mult : shows 0x03ffffd8 (.r 31 31 31 31 0x18) "mult $31 $31 $31" = true := by decide
theorem test_step_multu : shows 0x03ffffd9 (.r 31 31 31 31 0x19) "multu $31 $31 $31" = true := by decide
theorem test_step_div : shows 0x03ffffda (.r 31 31 31 31 0x1a) "div $31 $31 $31" = true := by decide
theorem test_step_divu : shows 0x03ffffdb (.r 31 31 31 31 0x1b) "divu $31 $31 $31" = true := by decide
theorem test_step_add : shows 0x03ffffe0 (.r 31 31 31 31 0x20) "add $31 $31 $31" = true := by decide
theorem test_step_addu : shows 0x03ffffe1 (.r 31 31 31 31 0x21) "addu $31 $31 $31" = true := by decide
theorem test_step_sub : shows 0x03ffffe2 (.r 31 31 31 31 0x22) "sub $31 $31 $31" = true := by decide
theorem test_step_subu : shows 0x03ffffe3 (.r 31 31 31 31 0x23) "subu $31 $31 $31" = true := by decide
theorem test_step_and : shows 0x03ffffe4 (.r 31 31 31 31 0x24) "and $31 $31 $31" = true := by decide
theorem test_step_or : shows 0x03ffffe5 (.r 31 31 31 31 0x25) "or $31 $31 $31" = true := by decide
theorem test_step_xor : shows 0x03ffffe6 (.r 31 31 31 31 0x26) "xor $31 $31 $31" = true := by decide
theorem test_step_nor : shows 0x03ffffe7 (.r 31 31 31 31 0x27) "nor $31 $31 $31" = true := by decide
theorem test_step_slt : shows 0x03ffffea (.r 31 31 31 31 0x2a) "slt $31 $31 $31" = true := by decide
theorem test_step_sltu : shows 0x03ffffeb (.r 31 31 31 31 0x2b) "sltu $31 $31 $31" = true := by decide
theorem test_step_bltz : shows 0x0480fffd (.i 4 0 0xfffd) "bltz $4 $0 fffd" = true := by decide
theorem test_step_bgez : shows 0x04810003 (.i 4 1 0x3) "bgez $4 $1 3" = true := by decide
theorem test_step_bltzal : shows 0x04900010 (.i 4 16 0x10) "bltzal $4 $16 10" = true := by decide
theorem test_step_bgezal : shows 0x0491ffff (.i 4 17 0xffff) "bgezal $4 $17 ffff" = true := by decide
theorem test_step_beq : shows 0x13ffffff (.i 31 31 0xffff) "beq $31 $31 ffff" = true := by decide
theorem test_step_bne : shows 0x17ffffff (.i 31 31 0xffff) "bne $31 $31 ffff" = true := by decide
theorem test_step_blez : shows 0x19000002 (.i 8 0 0x2) "blez $8 $0 2" = true := by decide
theorem test_step_bgtz : shows 0x1d000007 (.i 8 0 0x7) "bgtz $8 $0 7" = true := by decide
theorem test_step_addi : shows 0x23ffffff (.i 31 31 0xffff) "addi $31 $31 ffff" = true := by decide
theorem test_step_addiu : shows 0x27ffffff (.i 31 31 0xffff) "addiu $31 $31 ffff" = true := by decide
theorem test_step_slti : shows 0x2bffffff (.i 31 31 0xffff) "slti $31 $31 ffff" = true := by decide
theorem test_step_sltiu : shows 0x2fffffff (.i 31 31 0xffff) "sltiu $31 $31 ffff" = true := by decide
theorem test_step_andi : shows 0x33ffffff (.i 31 31 0xffff) "andi $31 $31 ffff" = true := by decide
theorem test_step_ori : shows 0x37ffffff (.i 31 31 0xffff) "ori $31 $31 ffff" = true := by decide
theorem test_step_xori : shows 0x3bffffff (.i 31 31 0xffff) "xori $31 $31 ffff" = true := by decide
theorem test_step_lui : shows 0x3fffffff (.i 31 31 0xffff) "lui $31 $31 ffff" = true := by decide
theorem test_step_lb : shows 0x83ffffff (.i 31 31 0xffff) "lb $31 $31 ffff" = true := by decide
theorem test_step_lh : shows 0x87ffffff (.i 31 31 0xffff) "lh $31 $31 ffff" = true := by decide
theorem test_step_lw : shows 0x8fffffff (.i 31 31 0xffff) "lw $31 $31 ffff" = true := by decide
theorem test_step_lbu : shows 0x93ffffff (.i 31 31 0xffff) "lbu $31 $31 ffff" = true := by decide
theorem test_step_lhu : shows 0x97ffffff (.i 31 31 0xffff) "lhu $31 $31 ffff" = true := by decide
theorem test_step_sb : shows 0xa3ffffff (.i 31 31 0xffff) "sb $31 $31 ffff" = true := by decide
theorem test_step_sh : shows 0xa7ffffff (.i 31 31 0xffff) "sh $31 $31 ffff" = true := by decide
theorem test_step_sw : shows 0xafffffff (.i 31 31 0xffff) "sw $31 $31 ffff" = true := by decide
theorem test_step_j : shows 0x08000001 (.j 0x1) "j 1" = true := by decide
theorem test_step_jal : shows 0x0fffffff (.j 0x3ffffff) "jal 3ffffff" = true := by decide

/-! ### Both sides of the no-op tie-break (41_r_format.md R130, R131; 95_test_vectors.md section 3.1) -/

theorem test_shift_amount_decides_nop_or_sll :
    decode 0x00000000#32 = some (.nop 0 0 0) ∧ decode 0x00000040#32 = some (.sll 0 0 0 1) ∧
    decode 0x000007C0#32 = some (.sll 0 0 0 31) ∧ decode 0x01095000#32 = some (.nop 8 9 10) := by decide

/-! ### Unrecognized words (95_test_vectors.md sections 2, 3.2, 3.3, 3.5) -/

theorem test_function_codes_outside_the_table :
    ([0x00221901, 0x00221905, 0x0022190D, 0x0022190F, 0x00221911, 0x00221913, 0x0022192C, 0x0022193F] : List Word).map decode =
      List.replicate 8 none := by decide
theorem test_selectors_outside_the_table :
    ([0x041F0000, 0x04820010, 0x048F0010, 0x04920010, 0x049F0010, 0x19010002, 0x191F0002, 0x1D010002, 0x1D1F0002] :
      List Word).map decode = List.replicate 9 none := by decide
theorem test_opcodes_outside_the_classifier :
    ([0x40000000, 0x7FFFFFFF, 0x88000000, 0x8BFFFFFF, 0x98000000, 0x9FFFFFFF, 0xA8000000, 0xB0000000, 0xBFFFFFFF,
      0xC0000000, 0xFC000000, 0xFFFFFFFF, 0xFE000000, 0xFDFFFFFF] : List Word).map decode = List.replicate 14 none := by
  decide
/-- `break` (P3 of section 7): no record, no rendering, and the machine goes on. -/
theorem test_step_on_an_unrecognized_word :
    (after (fed 0x0000000D)).map (fun t => (t.result, t.line)) = some (none, none) := by decide
/-- P2 of section 7: the word after the unrecognized `lwl` word still decodes. -/
theorem test_step_after_an_unrecognized_word :
    ((after (fedAll [0x89090000, 0x850B8000])).bind after).bind State.line = some "lh $8 $11 8000" := by decide
/-- R73: a mnemonic outside RECOGNIZED_SET is unrecognized, one inside it is not. -/
theorem test_narrowed_recognized_set :
    (after (fedNarrow [0x00094080])).map State.result = some none ∧
    ((after (fedNarrow [0x00220821])).map State.line) = some (some "addu $1 $2 $1 0 21") := by decide
/-- The four causes (60_exceptions.md R240), one word each. -/
theorem test_each_cause :
    rejection Config.default 0xFC000000#32 = some .opcodeAbsent ∧ rejection Config.default 0x0000000D#32 = some .functAbsent ∧
    rejection Config.default 0x041F0000#32 = some .selectorAbsent ∧
    rejection (fedNarrow []).cfg 0x00094080#32 = some .notRecognized := by decide

/-! ### Ports (95_test_vectors.md section 5) -/

theorem test_ports_r : (after (fed 0x00220821)).map State.ports = some
    { ok := 1, fmt := 0, mnem := 17, raw := 0x00220821, rs := 1, rt := 2, rd := 1, shamt := 0, funct := 0x21, imm := 0,
      target := 0 } := by decide
theorem test_ports_i : (after (fed 0x19000002)).map State.ports = some
    { ok := 1, fmt := 1, mnem := 32, raw := 0x19000002, rs := 8, rt := 0, rd := 0, shamt := 0, funct := 0, imm := 2,
      target := 0 } := by decide
theorem test_ports_j : (after (fed 0x0C100040)).map State.ports = some
    { ok := 1, fmt := 2, mnem := 51, raw := 0x0C100040, rs := 0, rt := 0, rd := 0, shamt := 0, funct := 0, imm := 0,
      target := 0x100040 } := by decide
theorem test_ports_unrecognized : (after (fed 0x041F0000)).map State.ports = some
    { ok := 0, fmt := 0, mnem := 0, raw := 0, rs := 0, rt := 0, rd := 0, shamt := 0, funct := 0, imm := 0, target := 0 } := by
  decide

/-! ### The renderer (95_test_vectors.md section 6; 44_renderer.md R225) -/

theorem test_render_verbose :
    ([0x00220821, 0x00094080, 0x00000000, 0x0000000C, 0x04810003, 0x08000000, 0x03FFFFEB] : List Word).map
        (fun w => (decodeRecord Config.default w).map (render true)) =
      [some "addu $1 $2 $1 0 21", some "sll $0 $9 $8 2 0", some "nop $0 $0 $0 0 0", some "syscall $0 $0 $0 0 c",
       some "bgez $4 $1 3", some "j 0", some "sltu $31 $31 $31 1f 2b"] := by decide
/-- 44_renderer.md R229: the 52 spellings are different. -/
theorem test_spellings_differ (m : Mnemonic) : Mnemonic.all.find? (fun n => n.text == m.text) = some m := by
  cases m <;> rfl

/-! ### Beside the machine: registered outputs and bytes -/

/-- 70_reset_and_hazards.md R266 with two registers: the first word's ports come two cycles later. -/
theorem test_two_output_registers :
    ((registeredOutputs Config.default [Ports.zero, Ports.zero] [0x00220821, 0x0BFFFFFF, 0, 0]).map Ports.raw).drop 2 =
      [0x00220821, 0x0BFFFFFF] := by decide
/-- 20_memory.md R42. -/
theorem test_byte_orders :
    wordOfBytes .big 0x00 0x22 0x08 0x21 = 0x00220821#32 ∧ wordOfBytes .little 0x21 0x08 0x22 0x00 = 0x00220821#32 := by
  decide

/-! ### Witnesses: for each obligation with hypotheses, inputs that meet all of them -/

/-- The one check of `wf`, at both ends of what it accepts, and a form it does not restrict. -/
theorem witness_DecodeOfEncodeIsTheInstruction :
    (Instr.sll 0 0 0 1).wf = true ∧ (Instr.sll 31 31 31 31).wf = true ∧ (Instr.jal 0x3FFFFFF).wf = true := by decide
theorem witness_EncodeOfDecodeIsTheWord :
    decode 0x00000040#32 = some (.sll 0 0 0 1) ∧ decode 0x0FFFFFFF#32 = some (.jal 0x3FFFFFF) := by decide
/-- Both clauses: two rows that agree in a word, and the two different rows that share a word's bits. -/
theorem witness_EveryWordMatchesAtMostOneRow :
    (⟨.sll, 0xFC00003F#32, 0x00000000#32, true⟩ : Row) ∈ rows ∧ (⟨.nop, 0xFC0007FF#32, 0x00000000#32, false⟩ : Row) ∈ rows ∧
    (⟨.sll, 0xFC00003F#32, 0x00000000#32, true⟩ : Row).matches 0x00000040#32 = true ∧
    (⟨.sll, 0xFC00003F#32, 0x00000000#32, true⟩ : Row).matchesBits 0#32 = true ∧
    (⟨.nop, 0xFC0007FF#32, 0x00000000#32, false⟩ : Row).matchesBits 0#32 = true := by decide
/-- The first and last opcodes of each run of absent ones. -/
theorem witness_FortyOpcodesAreUnrecognized :
    ([0x40000000, 0x7C000000, 0x88000000, 0x98000000, 0x9C000000, 0xA8000000, 0xB0000000, 0xBC000000, 0xC0000000,
      0xFC000000] : List Nat).map (fun w => opcodeOf (fed w).nextWord) =
      [0x10, 0x1F, 0x22, 0x26, 0x27, 0x2A, 0x2C, 0x2F, 0x30, 0x3F] ∧
    (0x0F : Opcode) ∉ ([0x10, 0x11, 0x12, 0x13, 0x14, 0x15, 0x16, 0x17, 0x18, 0x19, 0x1A, 0x1B, 0x1C, 0x1D, 0x1E, 0x1F, 0x22, 0x26,
      0x27, 0x2A, 0x2C, 0x2D, 0x2E, 0x2F, 0x30, 0x31, 0x32, 0x33, 0x34, 0x35, 0x36, 0x37, 0x38, 0x39, 0x3A, 0x3B, 0x3C, 0x3D, 0x3E,
      0x3F] : List Opcode) := by decide
theorem witness_ThirtyNineFunctionCodesAreUnrecognized :
    ([0x00000001, 0x00000005, 0x0000000D, 0x0000003F] : List Nat).map
        (fun w => (opcodeOf (fed w).nextWord, functOf (fed w).nextWord)) =
      [(0, 0x01), (0, 0x05), (0, 0x0D), (0, 0x3F)] ∧
    ([0x00000000, 0x0000002B] : List Word).map (fun w => (opcodeOf w, functOf w)) = [(0, 0x00), (0, 0x2B)] := by decide
/-- The values at which the ranges begin and end. -/
theorem witness_SelectorPairsAreUnrecognized :
    ([0x04020000, 0x040F0000, 0x04120000, 0x041F0000, 0x18010000, 0x181F0000, 0x1C010000, 0x1C1F0000] : List Nat).map
        (fun w => (opcodeOf (fed w).nextWord, rtOf (fed w).nextWord)) =
      [(1, 0x02), (1, 0x0F), (1, 0x12), (1, 0x1F), (6, 1), (6, 31), (7, 1), (7, 31)] ∧
    ([0x04010000, 0x04100000, 0x18000000, 0x1C000000] : List Word).map (fun w => (opcodeOf w, rtOf w)) =
      [(1, 1), (1, 0x10), (6, 0), (7, 0)] := by decide
/-- The hypotheses of UnusedFieldsDoNotSelect. -/
abbrev SelectorsAgree (w₁ w₂ : Word) : Prop :=
  opcodeOf w₁ = opcodeOf w₂ ∧
  (opcodeOf w₁ = 0x00#6 → functOf w₁ = functOf w₂ ∧ (functOf w₁ = 0x00#6 → (shamtOf w₁ = 0#5 ↔ shamtOf w₂ = 0#5))) ∧
  (opcodeOf w₁ = 0x01#6 → rtOf w₁ = rtOf w₂) ∧
  (opcodeOf w₁ = 0x06#6 ∨ opcodeOf w₁ = 0x07#6 → (rtOf w₁ = 0#5 ↔ rtOf w₂ = 0#5))
/-- One pair of different words for each premise: function code 0, another function code, opcode 1, opcode 6, another. -/
theorem witness_UnusedFieldsDoNotSelect :
    SelectorsAgree 0x00000040 0x03FFFFC0 ∧ SelectorsAgree 0x00000021 0x03FFFFE1 ∧ SelectorsAgree 0x04010000 0x07E1FFFF ∧
    SelectorsAgree 0x18010000 0x1BFFFFFF ∧ SelectorsAgree 0x08000000 0x0BFFFFFF := by
  refine ⟨?_, ?_, ?_, ?_, ?_⟩ <;> decide
/-- A record of each format. -/
theorem witness_DecodedRecordIsTheWordsOwn :
    decodeRecord Config.default 0x00220821#32 = some ⟨0x00220821, .addu, .r 1 2 1 0 0x21⟩ ∧
    decodeRecord Config.default 0x3C081234#32 = some ⟨0x3C081234, .lui, .i 0 8 0x1234⟩ ∧
    decodeRecord Config.default 0x0BFFFFFF#32 = some ⟨0x0BFFFFFF, .j, .j 0x3FFFFFF⟩ := by decide
/-- Both shapes of the top bits. -/
theorem witness_OpcodeAlignmentsAgreeOnlyOnUniformTopBits :
    BitVec.extractLsb' 25 7 0x01FFFFFF#32 = 0x00#7 ∧ BitVec.extractLsb' 25 7 0xFE000000#32 = 0x7F#7 := by decide

/-! A next word that meets the condition of each row: the rule's example. -/

theorem witness_NopAndSllRowsDecodeAndRun :
    ([0x00000000, 0x00094080] : List Nat).map
        (fun w => (opcodeOf (fed w).nextWord, functOf (fed w).nextWord)) =
      [(0, 0x00), (0, 0x00)] ∧
    shamtOf (fed 0x00000000).nextWord = 0#5 ∧ shamtOf (fed 0x00094080).nextWord ≠ 0#5 := by decide
theorem witness_ShiftRowsDecodeAndRun :
    ([0x000947c2, 0x00094043, 0x01494004, 0x01494006, 0x01494007] : List Nat).map
        (fun w => (opcodeOf (fed w).nextWord, functOf (fed w).nextWord)) =
      [(0, 0x02), (0, 0x03), (0, 0x04), (0, 0x06), (0, 0x07)] := by decide
theorem witness_RegisterJumpAndSpecialRowsDecodeAndRun :
    ([0x03e00008, 0x0120f809, 0x0000000c, 0x00004010, 0x00004812] : List Nat).map
        (fun w => (opcodeOf (fed w).nextWord, functOf (fed w).nextWord)) =
      [(0, 0x08), (0, 0x09), (0, 0x0c), (0, 0x10), (0, 0x12)] := by decide
theorem witness_MultiplyDivideRowsDecodeAndRun :
    ([0x00850018, 0x00850019, 0x0085001a, 0x0085001b] : List Nat).map
        (fun w => (opcodeOf (fed w).nextWord, functOf (fed w).nextWord)) =
      [(0, 0x18), (0, 0x19), (0, 0x1a), (0, 0x1b)] := by decide
theorem witness_ArithmeticRowsDecodeAndRun :
    ([0x012a4020, 0x00220821, 0x012a4022, 0x012a4023, 0x012a402a, 0x012a402b] : List Nat).map
        (fun w => (opcodeOf (fed w).nextWord, functOf (fed w).nextWord)) =
      [(0, 0x20), (0, 0x21), (0, 0x22), (0, 0x23), (0, 0x2a), (0, 0x2b)] := by decide
theorem witness_LogicalRowsDecodeAndRun :
    ([0x012a4024, 0x012a4025, 0x012a4026, 0x012a4027] : List Nat).map
        (fun w => (opcodeOf (fed w).nextWord, functOf (fed w).nextWord)) =
      [(0, 0x24), (0, 0x25), (0, 0x26), (0, 0x27)] := by decide
theorem witness_RegimmBranchRowsDecodeAndRun :
    ([0x0480fffd, 0x04810003, 0x04900010, 0x0491ffff] : List Nat).map
        (fun w => (opcodeOf (fed w).nextWord, rtOf (fed w).nextWord)) =
      [(1, 0x00), (1, 0x01), (1, 0x10), (1, 0x11)] := by decide
theorem witness_CompareBranchRowsDecodeAndRun :
    ([0x11090004, 0x1500fffe, 0x19000002, 0x1d000007] : List Nat).map
        (fun w => opcodeOf (fed w).nextWord) =
      [0x04, 0x05, 0x06, 0x07] ∧
    rtOf (fed 0x19000002).nextWord = 0#5 ∧ rtOf (fed 0x1d000007).nextWord = 0#5 ∧
    opcodeOf 0x19010002#32 = 0x06#6 ∧ rtOf 0x19010002#32 ≠ 0#5 ∧ opcodeOf 0x1D1F0002#32 = 0x07#6 ∧ rtOf 0x1D1F0002#32 ≠ 0#5 := by decide
theorem witness_ImmediateRowsDecodeAndRun :
    ([0x23bdfff8, 0x2408000a, 0x29098000, 0x2d090001, 0x310900ff, 0x35085678, 0x3909ffff, 0x3c081234] : List Nat).map
        (fun w => opcodeOf (fed w).nextWord) =
      [0x08, 0x09, 0x0a, 0x0b, 0x0c, 0x0d, 0x0e, 0x0f] := by decide
theorem witness_LoadStoreRowsDecodeAndRun :
    ([0x83a80000, 0x87a80002, 0x8fa90004, 0x9088ffff, 0x94880010, 0xa0880001, 0xa4880002, 0xafbf001c] : List Nat).map
        (fun w => opcodeOf (fed w).nextWord) =
      [0x20, 0x21, 0x23, 0x24, 0x25, 0x28, 0x29, 0x2b] := by decide
theorem witness_JumpRowsDecodeAndRun :
    ([0x0bffffff, 0x0c100040] : List Nat).map
        (fun w => opcodeOf (fed w).nextWord) =
      [0x02, 0x03] := by decide

/-- One clause each: a decoding next word, a nonempty supply, an empty one. -/
theorem witness_StepRunsTheDecodedInstruction :
    decode (fed 0x8FA90004).nextWord = some (.lw 29 9 4) ∧ (fedAll [1, 2]).supply = 1 :: [2] ∧ State.reset.supply = [] := by
  decide
theorem witness_UnrecognizedWordIsNoTrap :
    decodeRecord (fed 0x89090000).cfg (fed 0x89090000).nextWord = none ∧
    decodeRecord (fedNarrow [0x00094080]).cfg (fedNarrow [0x00094080]).nextWord = none ∧
    decodeRecord (fedAll [0x89090000, 0x850B8000, 7]).cfg (fedAll [0x89090000, 0x850B8000, 7]).nextWord = none ∧
    (fedAll [0x89090000, 0x850B8000, 7]).supply = 0x89090000 :: 0x850B8000 :: [7] := by decide
theorem witness_InstructionsTouchOnlyTheOutputs :
    ∃ t, exec (.syscall 0 0 0 0) (fed 0x0000000C) = .next t := ⟨_, rfl⟩
theorem witness_ParametersNeverChange :
    (∃ t, step (fedNarrow [0x00220821]) = .next t) ∧
    ∃ t, Sys2Proof.core.run 2 (fedNarrow [0x00220821, 0xFFFFFFFF]) = .next t := ⟨⟨_, rfl⟩, ⟨_, rfl⟩⟩
/-- Two states that share the next word and RECOGNIZED_SET and differ in the supply behind it, in what was received and in
RENDER_VERBOSE. -/
theorem witness_ResultDependsOnTheWordAlone :
    (fedAll [5]).nextWord = (otherPast [5, 6]).nextWord ∧
    (∀ m, m ∈ (fedAll [5]).cfg.recognized ↔ m ∈ (otherPast [5, 6]).cfg.recognized) ∧
    (∃ t, step (fedAll [5]) = .next t) ∧ ∃ t, step (otherPast [5, 6]) = .next t :=
  ⟨rfl, fun _ => Iff.rfl, ⟨_, rfl⟩, ⟨_, rfl⟩⟩
/-- The first clause, and the second with two words in both orders. -/
theorem witness_RunIsDecodeOfEachWord :
    (fedAll [1, 2, 3]).supply = [1, 2] ++ [3] ∧ ([1, 2] : List Word).Perm [2, 1] ∧
    (fedAll [1, 2]).cfg = (fedAll [2, 1]).cfg ∧ (fedAll [1, 2]).emitted = [] ∧ (fedAll [2, 1]).emitted = [] ∧
    (∃ t, Sys2Proof.core.run 2 (fedAll [1, 2]) = .next t) ∧ ∃ t, Sys2Proof.core.run 2 (fedAll [2, 1]) = .next t :=
  ⟨rfl, List.Perm.swap .., rfl, rfl, rfl, ⟨_, rfl⟩, ⟨_, rfl⟩⟩
/-- The invariant holds of the power-up state with any words to come, and the step goes on. -/
theorem witness_StepKeepsOutputsAndRecordsConsistent :
    (fedAll [0x00220821]).Inv ∧ ∃ t, step (fedAll [0x00220821]) = .next t := ⟨by decide, ⟨_, rfl⟩⟩
/-- The syscall clause, and each of the three kinds of word in the other. -/
theorem witness_SystemWordsHaveNoEffectBeyondTheRecord :
    opcodeOf (fed 0x0000000C).nextWord = 0x00#6 ∧ functOf (fed 0x0000000C).nextWord = 0x0C#6 ∧
    opcodeOf 0x0000000D#32 = 0x00#6 ∧ functOf 0x0000000D#32 = 0x0D#6 ∧ opcodeOf 0x40000000#32 = 0x10#6 ∧
    opcodeOf 0xBFFFFFFF#32 = 0x2F#6 := by decide
/-- A step that ends in a record, one format each. -/
theorem witness_PortsShowTheRecord :
    (after (fed 0x00220821)).bind State.result = some ⟨0x00220821, .addu, .r 1 2 1 0 0x21⟩ ∧
    (after (fed 0x3C081234)).bind State.result = some ⟨0x3C081234, .lui, .i 0 8 0x1234⟩ ∧
    (after (fed 0x0BFFFFFF)).bind State.result = some ⟨0x0BFFFFFF, .j, .j 0x3FFFFFF⟩ := by decide
theorem witness_PortsLoseNothing :
    resultPorts (decodeRecord Config.default 0x00220821#32) = resultPorts (some ⟨0x00220821, .addu, .r 1 2 1 0 0x21⟩) := by
  decide
/-- Both bases; a digit list that begins with 0; a field that is 0. -/
theorem witness_TokensReadBackToTheirValue :
    fieldDigits 10 31#5 = [3, 1] ∧ fieldDigits 16 0xFF#16 = [15, 15] ∧ fieldDigits 16 0#16 = 0 :: [] ∧ (0#16).toNat = 0 := by
  decide
theorem witness_CanonicalRenderingForgetsTheShift : (0#5 : Shamt) ≠ 31#5 := by decide

end Sys2Proof.Tests
end

section
/-! SUPPORT. The record of a word and its typed instruction agree, so one step is the decode function; what the ports
show of a result; one step and many of the parameters. -/

namespace Sys2Proof

/-! ### The typed instruction of a resolved word carries its mnemonic and format -/

/-- A typed instruction stands for a resolved mnemonic and format. -/
def Instr.Carries (i : Instr) (m : Mnemonic) (f : Format) : Prop := i.mnemonic = m ∧ Machine.instrFormat i = f

theorem ofR_of_functTable {funct : Funct} {m : Mnemonic} (h : functTable funct = some m) (rs rt rd : Reg) (shamt : Shamt) :
    ∃ i, Instr.ofR m rs rt rd shamt = some i ∧ i.Carries m (.r rs rt rd shamt funct) := by
  unfold functTable at h
  split at h <;> cases h <;> exact ⟨_, rfl, rfl, rfl⟩

theorem ofI_of_regimmTable {rt : Reg} {m : Mnemonic} (h : regimmTable rt = some m) (rs : Reg) (imm : Imm) :
    ∃ i, Instr.ofI m rs rt imm = some i ∧ i.Carries m (.i rs rt imm) := by
  unfold regimmTable at h
  split at h <;> cases h <;> exact ⟨_, rfl, rfl, rfl⟩

/-- `blez` and `bgtz` do not carry rt, so theirs must be 0 (42_i_format.md R169). -/
theorem ofI_of_iOpTable {opc : Opcode} {m : Mnemonic} {rt : Reg} (h : iOpTable opc = some m)
    (h67 : opc = 0x06#6 ∨ opc = 0x07#6 → rt = 0#5) (rs : Reg) (imm : Imm) :
    ∃ i, Instr.ofI m rs rt imm = some i ∧ i.Carries m (.i rs rt imm) := by
  unfold iOpTable at h
  split at h <;> cases h
  case h_3 => cases h67 (.inl rfl); exact ⟨_, rfl, rfl, rfl⟩
  case h_4 => cases h67 (.inr rfl); exact ⟨_, rfl, rfl, rfl⟩
  all_goals exact ⟨_, rfl, rfl, rfl⟩

theorem ofJ_of_jTable {opc : Opcode} {m : Mnemonic} (h : jTable opc = some m) (target : Target) :
    ∃ i, Instr.ofJ m target = some i ∧ i.Carries m (.j target) := by
  unfold jTable at h
  split at h <;> cases h <;> exact ⟨_, rfl, rfl, rfl⟩

/-- A resolved word has a typed instruction, and that instruction forgets nothing of the resolution. -/
theorem decode_of_resolve {w : Word} {m : Mnemonic} {f : Format} (h : resolve w = some (m, f)) :
    ∃ i, decode w = some i ∧ i.Carries m f := by
  have hd : decode w = Instr.ofResolved m f := by unfold decode; rw [h]
  rw [hd]
  obtain ⟨-, rfl, ⟨hf, hs, rfl⟩ | ⟨-, hm⟩⟩ | ⟨-, rfl, ⟨-, hm⟩ | ⟨-, h67, hm⟩⟩ | ⟨rfl, hm⟩ := resolve_cases h
  · exact ⟨_, rfl, rfl, by rw [formatR, hf, hs]; rfl⟩
  · exact ofR_of_functTable hm ..
  · exact ofI_of_regimmTable hm ..
  · exact ofI_of_iOpTable hm h67 ..
  · exact ofJ_of_jTable hm _

/-! ### Records and ports -/

theorem decodeRecord_raw {c : Config} {w : Word} {I : Instruction} (h : decodeRecord c w = some I) : I.raw = w := by
  obtain ⟨-, hraw, -⟩ := decodeRecord_eq_some.mp h
  exact hraw

/-- Every record the decoder answers is consistent with its own raw word (10_state.md R25). -/
theorem decodeRecord_consistent {c : Config} {w : Word} {I : Instruction} (h : decodeRecord c w = some I) :
    I.Consistent c := by
  rw [Instruction.Consistent, decodeRecord_raw h, h]

section Ports
variable (I : Instruction)

@[simp] theorem recordPorts_ok : (recordPorts I).ok = 1#1 := by unfold recordPorts; split <;> rfl
@[simp] theorem recordPorts_raw : (recordPorts I).raw = I.raw := by unfold recordPorts; split <;> rfl
@[simp] theorem recordPorts_mnem : (recordPorts I).mnem = I.mnem.code := by unfold recordPorts; split <;> rfl
theorem recordPorts_fmt_ne_three : (recordPorts I).fmt ≠ 3#2 := by unfold recordPorts; split <;> simp

end Ports

theorem recordPorts_r {I : Instruction} {rs rt rd : Reg} {shamt : Shamt} {funct : Funct}
    (h : I.fmt = .r rs rt rd shamt funct) :
    recordPorts I = ⟨1, 0, I.mnem.code, I.raw, rs, rt, rd, shamt, funct, 0, 0⟩ := by
  unfold recordPorts; rw [h]; rfl

theorem recordPorts_i {I : Instruction} {rs rt : Reg} {imm : Imm} (h : I.fmt = .i rs rt imm) :
    recordPorts I = ⟨1, 1, I.mnem.code, I.raw, rs, rt, 0, 0, 0, imm, 0⟩ := by
  unfold recordPorts; rw [h]; rfl

theorem recordPorts_j {I : Instruction} {target : Target} (h : I.fmt = .j target) :
    recordPorts I = ⟨1, 2, I.mnem.code, I.raw, 0, 0, 0, 0, 0, 0, target⟩ := by
  unfold recordPorts; rw [h]; rfl

@[simp] theorem resultPorts_none : resultPorts none = Ports.zero := rfl
@[simp] theorem resultPorts_some (I : Instruction) : resultPorts (some I) = recordPorts I := rfl

theorem resultPorts_ok_iff (r : Option Instruction) : (resultPorts r).ok = 1#1 ↔ r.isSome = true := by
  cases r with
  | none => exact iff_of_false (by decide) (by decide)
  | some I => simp

/-! ### Reading a record back from its ports -/

theorem Mnemonic.mem_all (m : Mnemonic) : m ∈ Mnemonic.all := mem_default_recognized m

theorem Mnemonic.codes_in_table_order : Mnemonic.all.map (fun m => m.code.toNat) = List.range 52 := by decide

theorem Mnemonic.code_lt (m : Mnemonic) : m.code.toNat < 52 := by
  rw [← List.mem_range, ← Mnemonic.codes_in_table_order]
  exact List.mem_map_of_mem (Mnemonic.mem_all m)

theorem Mnemonic.code_injective {m n : Mnemonic} (h : m.code = n.code) : m = n :=
  List.inj_on_of_nodup_map (Mnemonic.codes_in_table_order ▸ List.nodup_range) (Mnemonic.mem_all m) (Mnemonic.mem_all n)
    (congrArg BitVec.toNat h)

/-- The format that the ports show: the format code says which field ports belong to it. -/
def Ports.format (p : Ports) : Format :=
  if p.fmt = 0#2 then .r p.rs p.rt p.rd p.shamt p.funct
  else if p.fmt = 1#2 then .i p.rs p.rt p.imm
  else .j p.target

theorem Ports.format_recordPorts (I : Instruction) : (recordPorts I).format = I.fmt := by
  cases h : I.fmt with
  | r => rw [recordPorts_r h]; rfl
  | i => rw [recordPorts_i h]; rfl
  | j => rw [recordPorts_j h]; rfl

theorem recordPorts_injective {I J : Instruction} (h : recordPorts I = recordPorts J) : I = J := by
  have hraw : I.raw = J.raw := by rw [← recordPorts_raw, h, recordPorts_raw]
  have hmnem : I.mnem = J.mnem := Mnemonic.code_injective (by rw [← recordPorts_mnem, h, recordPorts_mnem])
  have hfmt : I.fmt = J.fmt := by rw [← Ports.format_recordPorts, h, Ports.format_recordPorts]
  cases I; cases J
  rw [Instruction.mk.injEq]
  exact ⟨hraw, hmnem, hfmt⟩

theorem resultPorts_injective {r₁ r₂ : Option Instruction} (h : resultPorts r₁ = resultPorts r₂) : r₁ = r₂ := by
  have hok : r₁.isSome = true ↔ r₂.isSome = true := by rw [← resultPorts_ok_iff, h, resultPorts_ok_iff]
  cases r₁ with
  | none => cases r₂ with
    | none => rfl
    | some J => simp at hok
  | some I => cases r₂ with
    | none => simp at hok
    | some J => rw [recordPorts_injective h]

/-! ### One step is the decode function -/

theorem tableWord_toNat (w : Word) : tableWord 32 w.toNat = w := by
  rw [tableWord, Nat.mod_eq_of_lt w.isLt, BitVec.ofNat_toNat, BitVec.setWidth_eq]

namespace Machine

theorem step_of_decode {s : State} {i : Instr} (h : decode s.nextWord = some i) : step s = exec i s.present := by
  unfold step; rw [State.present_word, h]

theorem step_of_decode_none {s : State} (h : decode s.nextWord = none) : step s = .next (s.present.conclude none) := by
  unfold step; rw [State.present_word, h]

/-- An instruction that carries a word's resolution assembles the record of that word. -/
theorem exec_of_carries {i : Instr} {s : State} {m : Mnemonic} {f : Format} (hr : resolve s.word = some (m, f))
    (hi : i.Carries m f) : exec i s = .next (s.conclude (decodeRecord s.cfg s.word)) := by
  obtain ⟨rfl, rfl⟩ := hi
  have hrec : s.assemble i.mnemonic (instrFormat i) = decodeRecord s.cfg s.word := by
    rw [decodeRecord_of_resolve hr]; simp [State.assemble, Config.recognizes]
  rw [exec_eq_emit, emit_eq, hrec]

/-- All that a step does (40_dispatch.md R105, R108): the next word comes onto the input and its record is concluded.
Cite this instead of splitting on what the word decodes to. -/
theorem step_eq_conclude (s : State) : step s = .next (s.present.conclude (decodeRecord s.cfg s.nextWord)) := by
  cases hr : resolve s.nextWord with
  | none => rw [step_of_decode_none (decode_of_resolve_none hr), decodeRecord_of_resolve_none hr]
  | some p =>
    obtain ⟨i, hd, hi⟩ := decode_of_resolve hr
    rw [step_of_decode hd, exec_of_carries hr hi, State.present_cfg, State.present_word]

theorem eq_conclude_of_step {s t : State} (h : step s = .next t) :
    t = s.present.conclude (decodeRecord s.cfg s.nextWord) := by
  rw [step_eq_conclude] at h; cases h; rfl

/-- An evaluation of the word on the input keeps the invariant, whatever stood on the outputs before. -/
theorem inv_conclude {s : State} (h : ∀ r ∈ s.emitted, ∀ I ∈ r, I.Consistent s.cfg) :
    (s.conclude (decodeRecord s.cfg s.word)).Inv := by
  refine ⟨rfl, fun r hr I hI => ?_⟩
  rw [State.conclude_emitted, List.mem_append, List.mem_singleton] at hr
  obtain hold | rfl := hr
  · exact h r hold I hI
  · exact decodeRecord_consistent hI

theorem step_keeps_inv {s t : State} (hs : s.Inv) (h : step s = .next t) : t.Inv := by
  obtain rfl := eq_conclude_of_step h
  obtain ⟨-, hrec⟩ := hs
  have hpresent : ∀ r ∈ s.present.emitted, ∀ I ∈ r, I.Consistent s.present.cfg := by simpa using hrec
  simpa only [State.present_cfg, State.present_word] using inv_conclude hpresent

theorem step_cfg {s t : State} (h : step s = .next t) : t.cfg = s.cfg := by
  rw [eq_conclude_of_step h, State.conclude_cfg, State.present_cfg]

theorem run_cfg {n : Nat} {s t : State} (h : Sys2Proof.core.run n s = .next t) : t.cfg = s.cfg := by
  induction n generalizing s with
  | zero => cases h; rfl
  | succ n ih =>
    have hstep := step_eq_conclude s
    rw [run_succ_of_next hstep] at h
    exact (ih h).trans (step_cfg hstep)

theorem ports_of_step {s t : State} (h : step s = .next t) : t.ports = resultPorts (decodeRecord s.cfg s.nextWord) := by
  rw [eq_conclude_of_step h]; rfl

theorem withFetchWord_nextWord (s : State) (w : Word) : (s.withFetchWord 32 w.toNat).nextWord = w :=
  tableWord_toNat w

end Machine

end Sys2Proof
end

section
/-! PROOFS. The statements about the state and the ports (10_state.md). -/

namespace Sys2Proof.Machine

/-- Settles O47: the step concludes an evaluation of the word it presents, and every decoded record is consistent. -/
theorem stepKeepsOutputsAndRecordsConsistent : Obligations.StepKeepsOutputsAndRecordsConsistent :=
  fun _ _ => step_keeps_inv

/-- Settles O43: every instruction only emits its record. -/
theorem instructionsTouchOnlyTheOutputs : Obligations.InstructionsTouchOnlyTheOutputs := by
  intro i s t h
  rw [exec_eq_emit, emit_eq] at h
  cases h
  obtain ⟨-, hemitted, hword, hsupply, hcfg⟩ := emit_emits i.mnemonic (instrFormat i) s
  exact ⟨hword, hsupply, hcfg, hemitted⟩

/-- Settles O44: one step keeps the parameters, and so does a run, by induction on its length. -/
theorem parametersNeverChange : Obligations.ParametersNeverChange :=
  ⟨fun _ _ => step_cfg, fun _ _ _ => run_cfg⟩

/-- Settles O50: after a step the ports are those of the next word's record, read off format by format. -/
theorem portsShowTheRecord : Obligations.PortsShowTheRecord := by
  intro s t h
  refine ⟨by rw [ports_of_step h, resultPorts_ok_iff], fun I hI => ?_⟩
  have hports : t.ports = recordPorts I := by rw [State.ports, hI, resultPorts_some]
  have hraw : I.raw = s.nextWord := by
    rw [eq_conclude_of_step h, State.conclude_result] at hI
    exact decodeRecord_raw hI
  rw [hports]
  refine ⟨by rw [recordPorts_raw, hraw], recordPorts_mnem I, ?_, ?_, ?_⟩
  · intro rs rt rd shamt funct hf
    rw [recordPorts_r hf]
    exact ⟨rfl, rfl, rfl, rfl, rfl, rfl, rfl, rfl⟩
  · intro rs rt imm hf
    rw [recordPorts_i hf]
    exact ⟨rfl, rfl, rfl, rfl, rfl, rfl, rfl, rfl⟩
  · intro target hf
    rw [recordPorts_j hf]
    exact ⟨rfl, rfl, rfl, rfl, rfl, rfl, rfl, rfl⟩

/-- Settles O51: raw word, mnemonic code and format are each read back from the ports of a record, and `ok` tells whether
there is one. -/
theorem portsLoseNothing : Obligations.PortsLoseNothing :=
  fun _ _ => resultPorts_injective

/-- Settles O39: the presented word is the head of the supply, and the word already there when the supply is empty. -/
theorem stepRunsTheDecodedInstruction : Obligations.StepRunsTheDecodedInstruction := by
  refine ⟨fun _ _ => step_of_decode, fun s w rest h => ?_, fun s h => ?_, withFetchWord_nextWord⟩
  · exact ⟨State.present_cons h, by rw [State.nextWord, State.present_cons h]⟩
  · exact ⟨State.present_nil h, by rw [State.nextWord, State.present_nil h]⟩

/-- Settles O48: the outputs at reset are defined as those of the word on the input, and nothing has been received. -/
theorem powerUpMeetsTheOutputRule : Obligations.PowerUpMeetsTheOutputRule :=
  ⟨⟨rfl, fun _ hr => absurd hr List.not_mem_nil⟩, rfl, mem_default_recognized, rfl⟩

/-- Settles O52: a port code is a member of the table of codes, and the three formats have the codes 0, 1 and 2. -/
theorem mnemonicCodesAreTheTable : Obligations.MnemonicCodesAreTheTable :=
  ⟨Mnemonic.codes_in_table_order, Mnemonic.mem_all,
    fun I => ⟨recordPorts_fmt_ne_three I, recordPorts_mnem I ▸ Mnemonic.code_lt I.mnem⟩⟩

end Sys2Proof.Machine
end

section
/-! SUPPORT. Words from bytes (20_memory.md R42) and a run over the words that the supplier presents (R46). -/

namespace Sys2Proof

/-! ### A word from four bytes -/

theorem toNat_append_byte {n : Nat} (x : BitVec n) (b : Byte) : (x ++ b).toNat = x.toNat * 256 + b.toNat := by
  rw [BitVec.toNat_append, ← Nat.shiftLeft_add_eq_or_of_lt b.isLt, Nat.shiftLeft_eq]

section Bytes
variable (b0 b1 b2 b3 : Byte)

/-- The two orders differ only in which end of the four bytes is read first. -/
theorem wordOfBytes_little : wordOfBytes .little b0 b1 b2 b3 = wordOfBytes .big b3 b2 b1 b0 := rfl

theorem wordOfBytes_big_toNat :
    (wordOfBytes .big b0 b1 b2 b3).toNat = ((b0.toNat * 256 + b1.toNat) * 256 + b2.toNat) * 256 + b3.toNat := by
  simp only [wordOfBytes, toNat_append_byte]

end Bytes

/-- A word is built, in big-endian order, from its own four 8-bit slices. -/
theorem wordOfBytes_big_slices (w : Word) :
    wordOfBytes .big (w.extractLsb' 24 8) (w.extractLsb' 16 8) (w.extractLsb' 8 8) (w.extractLsb' 0 8) = w := by
  have hw := w.isLt
  apply BitVec.eq_of_toNat_eq
  simp only [wordOfBytes_big_toNat, toNat_slice]
  omega

/-! ### A run over the supply -/

namespace Machine

/-- Where a run over the first words of the supply ends: the results of those words are added in order, the rest of the
supply and the parameters stay. -/
theorem exists_run_of_supply {ws rest : List Word} {s : State} (h : s.supply = ws ++ rest) :
    ∃ t : State, Sys2Proof.core.run ws.length s = .next t ∧
      t.emitted = s.emitted ++ ws.map (decodeRecord s.cfg) ∧ t.supply = rest ∧ t.cfg = s.cfg := by
  induction ws generalizing s with
  | nil => exact ⟨s, rfl, (List.append_nil _).symm, h, rfl⟩
  | cons w ws ih =>
    have hword : s.nextWord = w := by rw [State.nextWord, State.present_cons h]
    have hsupply : (s.present.conclude (decodeRecord s.cfg s.nextWord)).supply = ws ++ rest := by simp [h]
    obtain ⟨t, hrun, hemitted, hrest, hcfg⟩ := ih hsupply
    refine ⟨t, (run_succ_of_next (step_eq_conclude s)).trans hrun, ?_, hrest, by simpa using hcfg⟩
    simpa [hword] using hemitted

/-- A run over the whole supply, with nothing received before it, leaves exactly the words' results. -/
theorem emitted_of_run_supply {s t : State} (hs : s.emitted = [])
    (h : Sys2Proof.core.run s.supply.length s = .next t) : t.emitted = s.supply.map (decodeRecord s.cfg) := by
  obtain ⟨u, hrun, hemitted, -, -⟩ := exists_run_of_supply (List.append_nil s.supply).symm
  rw [h] at hrun
  cases hrun
  rw [hemitted, hs, List.nil_append]

end Machine

end Sys2Proof
end

section
/-! PROOFS. The statements about the supplied words and their bytes (20_memory.md). -/

namespace Sys2Proof.Machine

/-- Settles O46: the run is by induction on the words presented; a permutation of the words permutes their results. -/
theorem runIsDecodeOfEachWord : Obligations.RunIsDecodeOfEachWord := by
  refine ⟨fun _ _ _ => exists_run_of_supply, ?_⟩
  rintro s₁ s₂ t₁ t₂ _ _ hperm hcfg rfl rfl h₁ h₂ hrun₁ hrun₂
  rw [emitted_of_run_supply h₁ hrun₁, emitted_of_run_supply h₂ hrun₂, hcfg]
  exact hperm.map _

/-- Settles O57: little-endian order is big-endian order of the reversed bytes, and a word's own slices build it. -/
theorem bytesMakeTheWordInEitherOrder : Obligations.BytesMakeTheWordInEitherOrder := by
  refine ⟨fun b0 b1 b2 b3 => ⟨wordOfBytes_big_toNat b0 b1 b2 b3, ?_⟩, fun order w => ?_⟩
  · rw [wordOfBytes_little, wordOfBytes_big_toNat]
  · cases order with
    | big => exact ⟨_, _, _, _, wordOfBytes_big_slices w⟩
    | little => exact ⟨_, _, _, _, (wordOfBytes_little ..).trans (wordOfBytes_big_slices w)⟩

end Sys2Proof.Machine
end

section
/-! SUPPORT. What a word resolves to, in terms of the fields that select (30_encoding.md R66 to R72); the typed decoder on
encoded words; and what a row of the table promises once its words resolve. -/

namespace Sys2Proof

/-! ### What the tables know -/

theorem iOpTable_class {opc : Opcode} {m : Mnemonic} (hm : iOpTable opc = some m) :
    classifier opc = some .i ∧ opc ≠ 0x01#6 := by
  unfold iOpTable at hm
  split at hm <;> cases hm <;> decide

theorem jTable_class {opc : Opcode} {m : Mnemonic} (hm : jTable opc = some m) : classifier opc = some .j := by
  unfold jTable at hm
  split at hm <;> cases hm <;> rfl

theorem jTable_formatClass {opc : Opcode} {m : Mnemonic} (h : jTable opc = some m) : m.formatClass = .j := by
  unfold jTable at h
  split at h <;> cases h <;> rfl

theorem functTable_eq_sll_iff {funct : Funct} : functTable funct = some .sll ↔ funct = 0x00#6 := by
  revert funct; decide

/-! ### The resolved mnemonic is a function of the selecting fields -/

theorem resolve_mnem_of_opcode_zero {w : Word} (h : opcodeOf w = 0x00#6) :
    (resolve w).map Prod.fst =
      if functOf w = 0x00#6 ∧ shamtOf w = 0#5 then some .nop else functTable (functOf w) := by
  rw [resolve_of_opcode_zero h, resolveR]
  split <;> simp [Function.comp_def]

theorem resolve_mnem_of_class_i {w : Word} (h : classifier (opcodeOf w) = some .i) :
    (resolve w).map Prod.fst =
      if opcodeOf w = 0x01#6 then regimmTable (rtOf w)
      else if (opcodeOf w = 0x06#6 ∨ opcodeOf w = 0x07#6) ∧ rtOf w ≠ 0#5 then none
      else iOpTable (opcodeOf w) := by
  rw [resolve_of_class_i h, resolveI]
  split
  · simp [Function.comp_def]
  · split <;> simp [Function.comp_def]

theorem resolve_mnem_of_class_j {w : Word} (h : classifier (opcodeOf w) = some .j) :
    (resolve w).map Prod.fst = jTable (opcodeOf w) := by
  simp [resolve_of_class_j h, resolveJ, Function.comp_def]

/-! ### Words outside the tables -/

theorem decodeRecord_default_eq_none_iff {w : Word} : decodeRecord Config.default w = none ↔ resolve w = none := by
  refine ⟨fun h => ?_, decodeRecord_of_resolve_none⟩
  cases hr : resolve w with
  | none => rfl
  | some p => rw [decodeRecord_of_resolve hr, if_pos (mem_default_recognized _)] at h; cases h

theorem resolve_eq_none_iff_of_opcode_zero {w : Word} (h : opcodeOf w = 0x00#6) :
    resolve w = none ↔ functTable (functOf w) = none := by
  rw [← Option.map_eq_none_iff (f := Prod.fst), resolve_mnem_of_opcode_zero h]
  split
  · rename_i hnop
    rw [hnop.1]
    decide
  · rfl

theorem resolve_eq_none_iff_of_regimm {w : Word} (h : opcodeOf w = 0x01#6) :
    resolve w = none ↔ regimmTable (rtOf w) = none := by
  rw [← Option.map_eq_none_iff (f := Prod.fst), resolve_mnem_of_class_i (by rw [h]; rfl), if_pos h]

theorem class_of_blez_bgtz {opc : Opcode} (h : opc = 0x06#6 ∨ opc = 0x07#6) :
    classifier opc = some .i ∧ opc ≠ 0x01#6 ∧ iOpTable opc ≠ none := by
  obtain rfl | rfl := h <;> decide

theorem resolve_eq_none_iff_of_blez_bgtz {w : Word} (h : opcodeOf w = 0x06#6 ∨ opcodeOf w = 0x07#6) :
    resolve w = none ↔ rtOf w ≠ 0#5 := by
  obtain ⟨hc, h1, hm⟩ := class_of_blez_bgtz h
  rw [← Option.map_eq_none_iff (f := Prod.fst), resolve_mnem_of_class_i hc, if_neg h1]
  split
  · rename_i hrt
    exact iff_of_true rfl hrt.2
  · rename_i hrt
    exact iff_of_false hm fun hne => hrt ⟨h, hne⟩

/-- Every opcode the classifier knows has a recognized word: the one with all its other bits 0. -/
theorem recognized_of_classifier {opc : Opcode} (h : classifier opc ≠ none) :
    (decodeRecord Config.default (encodeI opc 0#5 0#5 0#16)).isSome = true := by
  revert opc; decide

/-! ### The typed decoder on encoded words -/

theorem decode_eq_ofResolved {w : Word} {m : Mnemonic} {f : Format} (h : resolve w = some (m, f)) :
    decode w = Instr.ofResolved m f := by
  unfold decode; rw [h]

section Encoded
variable {m : Mnemonic} {i : Instr} {rs rt rd : Reg} {imm : Imm} {target : Target}

theorem decode_encodeR_nop : decode (encodeR rs rt rd 0#5 0x00#6) = some (.nop rs rt rd) := by
  rw [decode_eq_ofResolved (resolve_nop_row (by simp) (by simp) (by simp))]
  simp [formatR, Instr.ofResolved, Instr.ofR]

theorem decode_encodeR_of_functTable {funct : Funct} {shamt : Shamt} (hm : functTable funct = some m)
    (hi : Instr.ofR m rs rt rd shamt = some i) (hn : funct = 0x00#6 → shamt ≠ 0#5) :
    decode (encodeR rs rt rd shamt funct) = some i := by
  rw [decode_eq_ofResolved (resolve_funct_row (by simp) (by simpa using hn) (by simpa using hm)), ← hi]
  simp [formatR, Instr.ofResolved]

theorem decode_encodeI_of_regimmTable (hm : regimmTable rt = some m) (hi : Instr.ofI m rs rt imm = some i) :
    decode (encodeI 0x01#6 rs rt imm) = some i := by
  rw [decode_eq_ofResolved (resolve_regimm_row (by simp) (by simpa using hm)), ← hi]
  simp [formatI, Instr.ofResolved]

theorem decode_encodeI_of_iOpTable {opc : Opcode} (hm : iOpTable opc = some m) (hi : Instr.ofI m rs rt imm = some i)
    (h67 : opc = 0x06#6 ∨ opc = 0x07#6 → rt = 0#5) : decode (encodeI opc rs rt imm) = some i := by
  obtain ⟨hc, h1⟩ := iOpTable_class hm
  rw [decode_eq_ofResolved
    (resolve_opcode_row (by simpa using hc) (by simpa using h1) (by simpa using h67) (by simpa using hm)), ← hi]
  simp [formatI, Instr.ofResolved]

theorem decode_encodeJ_of_jTable {opc : Opcode} (hm : jTable opc = some m) (hi : Instr.ofJ m target = some i) :
    decode (encodeJ opc target) = some i := by
  rw [decode_eq_ofResolved (resolve_jump_row (by simpa using jTable_class hm) (by simpa using hm)), ← hi]
  simp [formatJ, Instr.ofResolved]

end Encoded

namespace Machine

/-! ### A step on a word outside the tables, and the promise of a row -/

theorem step_of_decodeRecord_none {s : State} (h : decodeRecord s.cfg s.nextWord = none) :
    ∃ t, step s = .next t ∧ t.result = none :=
  ⟨_, step_eq_conclude s, h⟩

/-- A row promises what its words resolve to: the step concludes the record of the word it presents. -/
theorem rowGives_of_resolve {m : Mnemonic} {code : BitVec 6} {text : String} {cond : Word → Prop} {f : Word → Format}
    (hcode : m.code = code) (htext : m.text = text) (hres : ∀ w : Word, cond w → resolve w = some (m, f w)) :
    RowGives m code text cond f :=
  ⟨hcode, htext, hres, fun s hs =>
    ⟨_, step_eq_conclude s, State.present_word s, State.present_cfg s, decodeRecord_of_resolve (hres _ hs)⟩⟩

end Machine

end Sys2Proof
end

section
/-! SUPPORT. The mask and match table (30_encoding.md R79) against the resolvers: each row is of one of a few shapes, its
words are those that resolve to its mnemonic, and `sll` is the only row that its condition narrows. -/

namespace Sys2Proof

theorem append_eq_append_iff {n k : Nat} {x x' : BitVec n} {y y' : BitVec k} : x ++ y = x' ++ y' ↔ x = x' ∧ y = y' := by
  refine ⟨fun h => ⟨?_, ?_⟩, fun ⟨hx, hy⟩ => by rw [hx, hy]⟩
  · rw [← BitVec.extractLsb'_append_eq_left (a := x) (b := y), h, BitVec.extractLsb'_append_eq_left]
  · rw [← BitVec.extractLsb'_append_eq_right (a := x) (b := y), h, BitVec.extractLsb'_append_eq_right]

/-! ### The shapes of a row -/

/-- The row of the no-op. -/
def Row.nop : Row := ⟨.nop, 0xFC0007FF#32, 0#32, false⟩
/-- A row that opcode 0 and a function code select; `sll` alone has a condition. -/
def Row.ofFunct (m : Mnemonic) (funct : Funct) : Row := ⟨m, 0xFC00003F#32, 0x00#6 ++ 0#20 ++ funct, decide (m = .sll)⟩
/-- A row that an opcode and rt select. -/
def Row.ofSelector (m : Mnemonic) (opc : Opcode) (rt : Reg) : Row :=
  ⟨m, 0xFC1F0000#32, opc ++ 0#5 ++ rt ++ 0#16, false⟩
/-- A row that the opcode alone selects. -/
def Row.ofOpcode (m : Mnemonic) (opc : Opcode) : Row := ⟨m, 0xFC000000#32, opc ++ 0#26, false⟩

/-- What the tables of the resolvers say a row must be. -/
inductive Row.FromTables : Row → Prop where
  | nop : FromTables Row.nop
  | funct {m : Mnemonic} {funct : Funct} (h : functTable funct = some m) : FromTables (Row.ofFunct m funct)
  | regimm {m : Mnemonic} {rt : Reg} (h : regimmTable rt = some m) : FromTables (Row.ofSelector m 0x01#6 rt)
  | rtZero {m : Mnemonic} {opc : Opcode} (h : iOpTable opc = some m) (h67 : opc = 0x06#6 ∨ opc = 0x07#6) :
    FromTables (Row.ofSelector m opc 0x00#5)
  | opcode {m : Mnemonic} {opc : Opcode} (h : iOpTable opc = some m) (h67 : ¬(opc = 0x06#6 ∨ opc = 0x07#6)) :
    FromTables (Row.ofOpcode m opc)
  | jump {m : Mnemonic} {opc : Opcode} (h : jTable opc = some m) : FromTables (Row.ofOpcode m opc)

theorem Row.fromTables_of_mem {r : Row} (h : r ∈ rows) : r.FromTables := by
  have hshape : ∀ r ∈ rows, r = Row.nop ∨
      (functTable (functOf r.pattern) = some r.mnem ∧ r = Row.ofFunct r.mnem (functOf r.pattern)) ∨
      (regimmTable (rtOf r.pattern) = some r.mnem ∧ r = Row.ofSelector r.mnem 0x01#6 (rtOf r.pattern)) ∨
      (iOpTable (opcodeOf r.pattern) = some r.mnem ∧ (opcodeOf r.pattern = 0x06#6 ∨ opcodeOf r.pattern = 0x07#6) ∧
        r = Row.ofSelector r.mnem (opcodeOf r.pattern) 0x00#5) ∨
      (iOpTable (opcodeOf r.pattern) = some r.mnem ∧ ¬(opcodeOf r.pattern = 0x06#6 ∨ opcodeOf r.pattern = 0x07#6) ∧
        r = Row.ofOpcode r.mnem (opcodeOf r.pattern)) ∨
      (jTable (opcodeOf r.pattern) = some r.mnem ∧ r = Row.ofOpcode r.mnem (opcodeOf r.pattern)) := by
    decide
  obtain hr | ⟨hm, hr⟩ | ⟨hm, hr⟩ | ⟨hm, h67, hr⟩ | ⟨hm, h67, hr⟩ | ⟨hm, hr⟩ := hshape r h <;> rw [hr]
  · exact .nop
  · exact .funct hm
  · exact .regimm hm
  · exact .rtZero hm h67
  · exact .opcode hm h67
  · exact .jump hm

theorem Row.mem_of_fromTables {r : Row} (h : r.FromTables) : r ∈ rows := by
  cases h with
  | nop => decide
  | funct h =>
    unfold functTable at h
    split at h <;> cases h <;> decide
  | regimm h =>
    unfold regimmTable at h
    split at h <;> cases h <;> decide
  | rtZero h h67 => obtain rfl | rfl := h67 <;> cases h <;> decide
  | opcode h h67 =>
    unfold iOpTable at h
    split at h <;> cases h
    case h_3 => exact absurd (.inl rfl) h67
    case h_4 => exact absurd (.inr rfl) h67
    all_goals decide
  | jump h =>
    unfold jTable at h
    split at h <;> cases h <;> decide

/-! ### The words of each shape -/

section Words
variable {m : Mnemonic} {opc : Opcode} {rt : Reg} {funct : Funct} {w : Word}

theorem Row.matches_of_no_condition {r : Row} (h : r.needsShift = false) : r.matches w = r.matchesBits w := by
  simp [Row.matches, h]

theorem Row.nop_matches :
    Row.nop.matches w = true ↔ opcodeOf w = 0x00#6 ∧ functOf w = 0x00#6 ∧ shamtOf w = 0#5 := by
  have hpattern : Row.nop.pattern = 0x00#6 ++ 0#15 ++ 0#5 ++ 0x00#6 := rfl
  rw [Row.matches_of_no_condition rfl, Row.matchesBits, beq_iff_eq, hpattern, Row.nop, and_nop_mask, append_eq_append_iff,
    append_eq_append_iff, append_eq_append_iff, and_iff_left rfl, and_right_comm, and_assoc]

theorem Row.ofFunct_matchesBits : (Row.ofFunct m funct).matchesBits w = true ↔ opcodeOf w = 0x00#6 ∧ functOf w = funct := by
  rw [Row.matchesBits, beq_iff_eq, Row.ofFunct, and_funct_mask, append_eq_append_iff, append_eq_append_iff,
    and_iff_left rfl]

theorem Row.ofFunct_matches :
    (Row.ofFunct m funct).matches w = true ↔
      opcodeOf w = 0x00#6 ∧ functOf w = funct ∧ (m = .sll → shamtOf w ≠ 0#5) := by
  rw [Row.matches, Bool.and_eq_true, Row.ofFunct_matchesBits, and_assoc]
  simp [Row.ofFunct, imp_iff_not_or]

theorem Row.ofSelector_matches : (Row.ofSelector m opc rt).matches w = true ↔ opcodeOf w = opc ∧ rtOf w = rt := by
  rw [Row.matches_of_no_condition rfl, Row.matchesBits, beq_iff_eq, Row.ofSelector, and_selector_mask, append_eq_append_iff,
    append_eq_append_iff, append_eq_append_iff, and_iff_left rfl, and_iff_left rfl]

theorem Row.ofOpcode_matches : (Row.ofOpcode m opc).matches w = true ↔ opcodeOf w = opc := by
  rw [Row.matches_of_no_condition rfl, Row.matchesBits, beq_iff_eq, Row.ofOpcode, and_opcode_mask, append_eq_append_iff,
    and_iff_left rfl]

end Words

/-! ### The words of a row are those that resolve to its mnemonic -/

theorem exists_resolve_of_matches {r : Row} {w : Word} (hr : r ∈ rows) (h : r.matches w = true) :
    ∃ f, resolve w = some (r.mnem, f) := by
  cases Row.fromTables_of_mem hr with
  | nop =>
    obtain ⟨h0, hfunct, hshamt⟩ := Row.nop_matches.mp h
    exact ⟨_, resolve_nop_row h0 hfunct hshamt⟩
  | funct hm =>
    obtain ⟨h0, rfl, hsll⟩ := Row.ofFunct_matches.mp h
    refine ⟨_, resolve_funct_row h0 (fun ⟨hfunct, hshamt⟩ => ?_) hm⟩
    rw [functTable_eq_sll_iff.mpr hfunct, Option.some.injEq] at hm
    exact hsll hm.symm hshamt
  | regimm hm =>
    obtain ⟨h1, rfl⟩ := Row.ofSelector_matches.mp h
    exact ⟨_, resolve_regimm_row h1 hm⟩
  | rtZero hm h67 =>
    obtain ⟨rfl, hrt⟩ := Row.ofSelector_matches.mp h
    obtain ⟨hc, h1⟩ := iOpTable_class hm
    exact ⟨_, resolve_opcode_row hc h1 (fun _ => hrt) hm⟩
  | opcode hm h67 =>
    obtain rfl := Row.ofOpcode_matches.mp h
    obtain ⟨hc, h1⟩ := iOpTable_class hm
    exact ⟨_, resolve_opcode_row hc h1 (fun h => absurd h h67) hm⟩
  | jump hm =>
    obtain rfl := Row.ofOpcode_matches.mp h
    exact ⟨_, resolve_jump_row (jTable_class hm) hm⟩

theorem exists_row_of_resolve {w : Word} {m : Mnemonic} {f : Format} (h : resolve w = some (m, f)) :
    ∃ r ∈ rows, r.mnem = m ∧ r.matches w = true := by
  obtain ⟨h0, -, ⟨hfunct, hshamt, rfl⟩ | ⟨hn, hm⟩⟩ | ⟨-, -, ⟨h1, hm⟩ | ⟨-, hrt, hm⟩⟩ | ⟨-, hm⟩ := resolve_cases h
  · exact ⟨_, Row.mem_of_fromTables .nop, rfl, Row.nop_matches.mpr ⟨h0, hfunct, hshamt⟩⟩
  · refine ⟨_, Row.mem_of_fromTables (.funct hm), rfl, Row.ofFunct_matches.mpr ⟨h0, rfl, fun hsll hshamt => ?_⟩⟩
    subst hsll
    exact hn ⟨functTable_eq_sll_iff.mp hm, hshamt⟩
  · exact ⟨_, Row.mem_of_fromTables (.regimm hm), rfl, Row.ofSelector_matches.mpr ⟨h1, rfl⟩⟩
  · by_cases h67 : opcodeOf w = 0x06#6 ∨ opcodeOf w = 0x07#6
    · exact ⟨_, Row.mem_of_fromTables (.rtZero hm h67), rfl, Row.ofSelector_matches.mpr ⟨rfl, hrt h67⟩⟩
    · exact ⟨_, Row.mem_of_fromTables (.opcode hm h67), rfl, Row.ofOpcode_matches.mpr rfl⟩
  · exact ⟨_, Row.mem_of_fromTables (.jump hm), rfl, Row.ofOpcode_matches.mpr rfl⟩

theorem nodup_rows_mnem : (rows.map Row.mnem).Nodup := by decide

theorem row_eq_of_mnem {r₁ r₂ : Row} (h₁ : r₁ ∈ rows) (h₂ : r₂ ∈ rows) (h : r₁.mnem = r₂.mnem) : r₁ = r₂ :=
  List.inj_on_of_nodup_map nodup_rows_mnem h₁ h₂ h

theorem row_eq_of_matches {r₁ r₂ : Row} {w : Word} (h₁ : r₁ ∈ rows) (h₂ : r₂ ∈ rows) (hw₁ : r₁.matches w = true)
    (hw₂ : r₂.matches w = true) : r₁ = r₂ := by
  obtain ⟨f₁, hf₁⟩ := exists_resolve_of_matches h₁ hw₁
  obtain ⟨f₂, hf₂⟩ := exists_resolve_of_matches h₂ hw₂
  rw [hf₁, Option.some.injEq, Prod.mk.injEq] at hf₂
  obtain ⟨hmnem, -⟩ := hf₂
  exact row_eq_of_mnem h₁ h₂ hmnem

/-- The condition removes words from `sll` alone, and they are words of `nop`. -/
theorem nop_of_matchesBits_only {r : Row} {w : Word} (hr : r ∈ rows) (hbits : r.matchesBits w = true)
    (h : r.matches w ≠ true) : r.mnem = .sll ∧ Row.nop.matches w = true := by
  cases Row.fromTables_of_mem hr with
  | @funct m funct hm =>
    rw [Row.ofFunct_matchesBits] at hbits
    obtain ⟨h0, rfl⟩ := hbits
    obtain ⟨rfl, hshamt⟩ : m = .sll ∧ shamtOf w = 0#5 := by
      simpa only [ne_eq, Row.ofFunct_matches, h0, true_and, Classical.not_imp, not_not] using h
    exact ⟨rfl, Row.nop_matches.mpr ⟨h0, functTable_eq_sll_iff.mp hm, hshamt⟩⟩
  | nop | regimm | rtZero | opcode | jump => exact absurd ((Row.matches_of_no_condition rfl).trans hbits) h

/-! ### Looking a word up in the table -/

theorem rowLookup_eq_resolve (w : Word) : rowLookup w = (resolve w).map Prod.fst := by
  unfold rowLookup
  cases hf : rows.find? fun r => r.matches w with
  | some r =>
    have hw : r.matches w = true := by simpa using List.find?_some hf
    obtain ⟨f, hres⟩ := exists_resolve_of_matches (List.mem_of_find?_eq_some hf) hw
    rw [hres]; rfl
  | none =>
    cases hres : resolve w with
    | none => rfl
    | some p =>
      obtain ⟨r, hr, -, hw⟩ := exists_row_of_resolve hres
      exact absurd hw (List.find?_eq_none.mp hf r hr)

theorem rows_eq_nop_cons : rows = Row.nop :: rows.tail := rfl

/-- Table order stands in for the condition: `nop` is the first row. -/
theorem rowLookupInOrder_eq_rowLookup (w : Word) : rowLookupInOrder w = rowLookup w := by
  unfold rowLookupInOrder rowLookup
  rw [rows_eq_nop_cons, List.find?_cons, List.find?_cons, Row.matches_of_no_condition (r := Row.nop) rfl]
  cases hnop : Row.nop.matchesBits w with
  | true => rfl
  | false =>
    congr 1
    refine List.find?_congr fun r hr => ?_
    cases hbits : r.matchesBits w with
    | false => simp [Row.matches, hbits]
    | true =>
      by_contra hne
      obtain ⟨-, h⟩ := nop_of_matchesBits_only (List.mem_of_mem_tail hr) hbits (Ne.symm hne)
      rw [Row.matches_of_no_condition rfl, hnop] at h
      cases h

/-- Two rows that share a word's bits, one of them not by its whole test. -/
theorem eq_or_sll_and_nop_of_bits {r₁ r₂ : Row} {w : Word} (h₁ : r₁ ∈ rows) (h₂ : r₂ ∈ rows)
    (hw₁ : r₁.matchesBits w = true) (hw₂ : r₂.matchesBits w = true) (h : r₁.matches w ≠ true) :
    r₁ = r₂ ∨ r₁.mnem = .sll ∧ r₂.mnem = .nop := by
  obtain ⟨hsll₁, hnop⟩ := nop_of_matchesBits_only h₁ hw₁ h
  by_cases h' : r₂.matches w = true
  · rw [row_eq_of_matches h₂ (Row.mem_of_fromTables .nop) h' hnop]
    exact .inr ⟨hsll₁, rfl⟩
  · obtain ⟨hsll₂, -⟩ := nop_of_matchesBits_only h₂ hw₂ h'
    exact .inl (row_eq_of_mnem h₁ h₂ (hsll₁.trans hsll₂.symm))

/-! ### How many words a row has (30_encoding.md R80) -/

/-- The number of bits of a word that a mask leaves free. -/
def freeBits (mask : Word) : Nat := (List.range 32).countP fun i => !mask.getLsbD i

/-- The number of words of a row: each bit outside its mask is free, and the condition takes the words with shift amount
0 away. -/
def Row.wordCount (r : Row) : Nat :=
  2 ^ freeBits r.mask - if r.needsShift then 2 ^ 15 else 0

theorem card_words_nop : (Finset.univ.filter fun w : Word => Row.nop.matches w = true).card = 2 ^ 15 :=
  calc
    _ = (Finset.univ.filter fun w : Word => opcodeOf w = 0x00#6 ∧ (functOf w, shamtOf w) ∈ ({(0x00#6, 0#5)} : Finset _)).card :=
      card_words_congr fun w => by
        rw [Row.nop_matches, Finset.mem_singleton, Prod.mk.injEq]
    _ = 2 ^ 15 := by rw [card_words_funct, Finset.card_singleton, one_mul]

theorem card_words_ofFunct (m : Mnemonic) (funct : Funct) :
    (Finset.univ.filter fun w : Word => (Row.ofFunct m funct).matches w = true).card =
      (if m = .sll then 31 else 32) * 2 ^ 15 := by
  have hshamts : (Finset.univ.filter fun shamt : Shamt => m = .sll → shamt ≠ 0#5).card = if m = .sll then 31 else 32 := by
    by_cases hsll : m = .sll
    · simp only [hsll, true_imp_iff]
      decide
    · simp only [hsll, false_imp_iff]
      decide
  calc
    _ = (Finset.univ.filter fun w : Word => opcodeOf w = 0x00#6 ∧ (functOf w, shamtOf w) ∈
          {funct} ×ˢ Finset.univ.filter fun shamt : Shamt => m = .sll → shamt ≠ 0#5).card :=
      card_words_congr fun w => by
        rw [Row.ofFunct_matches, Finset.mem_product, Finset.mem_singleton, Finset.mem_filter_univ]
    _ = (if m = .sll then 31 else 32) * 2 ^ 15 := by
      rw [card_words_funct, Finset.card_product, Finset.card_singleton, one_mul, hshamts]

theorem card_words_ofSelector (m : Mnemonic) (opc : Opcode) (rt : Reg) :
    (Finset.univ.filter fun w : Word => (Row.ofSelector m opc rt).matches w = true).card = 2 ^ 21 :=
  calc
    _ = (Finset.univ.filter fun w : Word => (opcodeOf w, rtOf w) ∈ ({(opc, rt)} : Finset _)).card :=
      card_words_congr fun w => by
        rw [Row.ofSelector_matches, Finset.mem_singleton, Prod.mk.injEq]
    _ = 2 ^ 21 := by rw [card_words_selector, Finset.card_singleton, one_mul]

theorem card_words_ofOpcode (m : Mnemonic) (opc : Opcode) :
    (Finset.univ.filter fun w : Word => (Row.ofOpcode m opc).matches w = true).card = 2 ^ 26 :=
  calc
    _ = (Finset.univ.filter fun w : Word => opcodeOf w ∈ ({opc} : Finset _)).card :=
      card_words_congr fun w => by
        rw [Row.ofOpcode_matches, Finset.mem_singleton]
    _ = 2 ^ 26 := by rw [card_words_opcode, Finset.card_singleton, one_mul]

theorem card_words_row {r : Row} (hr : r ∈ rows) :
    (Finset.univ.filter fun w : Word => r.matches w = true).card = r.wordCount := by
  have hnop : freeBits 0xFC0007FF#32 = 15 := by decide
  have hfunct : freeBits 0xFC00003F#32 = 20 := by decide
  have hselector : freeBits 0xFC1F0000#32 = 21 := by decide
  have hopcode : freeBits 0xFC000000#32 = 26 := by decide
  cases Row.fromTables_of_mem hr with
  | nop => rw [card_words_nop, Row.wordCount, Row.nop, hnop]; rfl
  | @funct m funct hm =>
    rw [card_words_ofFunct, Row.wordCount, Row.ofFunct, hfunct]
    by_cases hsll : m = .sll <;> simp [hsll]
  | regimm | rtZero => rw [card_words_ofSelector, Row.wordCount, Row.ofSelector, hselector]; rfl
  | opcode | jump => rw [card_words_ofOpcode, Row.wordCount, Row.ofOpcode, hopcode]; rfl

/-- The rows are disjoint, so the words of several rows are counted row by row. -/
theorem card_words_rows {l : List Row} (hl : ∀ r ∈ l, r ∈ rows) (hnd : l.Nodup) :
    (Finset.univ.filter fun w : Word => (l.any fun r => r.matches w) = true).card = (l.map Row.wordCount).sum := by
  induction l with
  | nil => simp
  | cons r l ih =>
    obtain ⟨hr, hl⟩ := List.forall_mem_cons.mp hl
    obtain ⟨hrl, hnd⟩ := List.nodup_cons.mp hnd
    have hdisj : Disjoint (Finset.univ.filter fun w : Word => r.matches w = true)
        (Finset.univ.filter fun w : Word => (l.any fun r => r.matches w) = true) := by
      refine Finset.disjoint_filter.mpr fun w _ hw hany => ?_
      obtain ⟨r', hr', hw'⟩ := List.any_eq_true.mp hany
      exact hrl (row_eq_of_matches hr (hl r' hr') hw hw' ▸ hr')
    simp only [List.any_cons, Bool.or_eq_true, Finset.filter_or]
    rw [Finset.card_union_of_disjoint hdisj, card_words_row hr, ih hl hnd, List.map_cons, List.sum_cons]

/-- A record's mnemonic has the format of the record (10_state.md R28). -/
theorem formatClass_of_decodeRecord {c : Config} {w : Word} {I : Instruction} (h : decodeRecord c w = some I) :
    I.fmt.formatClass = I.mnem.formatClass := by
  obtain ⟨-, -, hres⟩ := decodeRecord_eq_some.mp h
  obtain ⟨-, hf, ⟨-, -, hm⟩ | ⟨-, hm⟩⟩ | ⟨-, hf, ⟨-, hm⟩ | ⟨-, -, hm⟩⟩ | ⟨hf, hm⟩ := resolve_cases hres <;> rw [hf]
  · rw [hm]; rfl
  · exact (functTable_formatClass hm).symm
  · exact (regimmTable_formatClass hm).symm
  · exact (iOpTable_formatClass hm).symm
  · exact (jTable_formatClass hm).symm

/-- The words whose default record has a property of its mnemonic are counted over the rows with that property. -/
theorem card_words_record {p : Instruction → Bool} (q : Mnemonic → Bool)
    (hp : ∀ I : Instruction, I.fmt.formatClass = I.mnem.formatClass → p I = q I.mnem) :
    (Finset.univ.filter fun w : Word => (decodeRecord Config.default w).any p = true).card =
      ((rows.filter fun r => q r.mnem).map Row.wordCount).sum := by
  have hmem : ∀ r ∈ rows.filter fun r => q r.mnem, r ∈ rows := fun r hr => (List.mem_filter.mp hr).1
  rw [← card_words_rows hmem ((List.Nodup.of_map _ nodup_rows_mnem).filter _)]
  refine card_words_congr fun w => ?_
  rw [Option.any_eq_true, List.any_eq_true]
  constructor
  · rintro ⟨I, hI, hpI⟩
    obtain ⟨-, -, hres⟩ := decodeRecord_eq_some.mp hI
    obtain ⟨r, hr, hm, hw⟩ := exists_row_of_resolve hres
    rw [hp I (formatClass_of_decodeRecord hI), ← hm] at hpI
    exact ⟨r, List.mem_filter.mpr ⟨hr, hpI⟩, hw⟩
  · rintro ⟨r, hr, hw⟩
    obtain ⟨hr, hq⟩ := List.mem_filter.mp hr
    obtain ⟨f, hres⟩ := exists_resolve_of_matches hr hw
    have hI : decodeRecord Config.default w = some ⟨w, r.mnem, f⟩ :=
      decodeRecord_eq_some.mpr ⟨mem_default_recognized _, rfl, hres⟩
    exact ⟨_, hI, (hp _ (formatClass_of_decodeRecord hI)).trans hq⟩

end Sys2Proof
end

section
/-! PROOFS. The statements about the encoding (30_encoding.md). -/

namespace Sys2Proof.Machine

/-- Settles O3: every encoding is one of the three layouts with the selecting fields of its table row, and `wf` keeps the
words of `nop` apart from those of `sll`. -/
theorem decodeOfEncodeIsTheInstruction : Obligations.DecodeOfEncodeIsTheInstruction := by
  intro i hwf
  cases i
  case nop => exact decode_encodeR_nop
  case sll => exact decode_encodeR_of_functTable rfl rfl fun _ => by simpa [Instr.wf] using hwf
  case bltz | bgez | bltzal | bgezal => exact decode_encodeI_of_regimmTable rfl rfl
  case blez | bgtz => exact decode_encodeI_of_iOpTable rfl rfl fun _ => rfl
  case beq | bne | addi | addiu | slti | sltiu | andi | ori | xori | lui | lb | lh | lw | lbu | lhu | sb | sh | sw =>
    exact decode_encodeI_of_iOpTable rfl rfl (by simp)
  case j | jal => exact decode_encodeJ_of_jTable rfl rfl
  all_goals exact decode_encodeR_of_functTable rfl rfl (by simp)

/-- Settles O1: each field is a slice of the word. -/
theorem fieldSlicesAreUnsigned : Obligations.FieldSlicesAreUnsigned := by
  intro w
  have low (len : Nat) : (w.extractLsb' 0 len).toNat = w.toNat % 2 ^ len := by
    rw [toNat_slice, pow_zero, Nat.div_one]
  exact ⟨toNat_slice w 26 6, toNat_slice w 21 5, toNat_slice w 16 5, toNat_slice w 11 5, toNat_slice w 6 5,
    low 6, low 16, low 26⟩

/-- Settles O5: a word's row is the one row with the resolved mnemonic, and `nop` comes before `sll` in table order. -/
theorem maskTableResolvesTheSameMnemonic : Obligations.MaskTableResolvesTheSameMnemonic :=
  fun w => ⟨(rowLookup_eq_resolve w).symm, ((rowLookupInOrder_eq_rowLookup w).trans (rowLookup_eq_resolve w)).symm⟩

/-- Settles O6: rows of one word have the mnemonic it resolves to, and only the condition of `sll` removes words. -/
theorem everyWordMatchesAtMostOneRow : Obligations.EveryWordMatchesAtMostOneRow := by
  intro w r₁ r₂ h₁ h₂
  refine ⟨row_eq_of_matches h₁ h₂, fun hw₁ hw₂ hne => ?_⟩
  by_cases hm₁ : r₁.matches w = true
  · by_cases hm₂ : r₂.matches w = true
    · exact absurd (row_eq_of_matches h₁ h₂ hm₁ hm₂) hne
    · obtain heq | ⟨hsll, hnop⟩ := eq_or_sll_and_nop_of_bits h₂ h₁ hw₂ hw₁ hm₂
      · exact absurd heq.symm hne
      · exact .inl ⟨hnop, hsll⟩
  · exact .inr ((eq_or_sll_and_nop_of_bits h₁ h₂ hw₁ hw₂ hm₁).resolve_left hne)

/-- Settles O7: each group is a sublist of the rows, whose word counts add up. -/
theorem rowCountsOfAllWords : Obligations.RowCountsOfAllWords := by
  unfold Obligations.RowCountsOfAllWords
  intro countOf regimm
  have htotal : countOf (fun _ => true) = 1380974592 := (card_words_record (fun _ => true) fun _ _ => rfl).trans (by decide)
  refine ⟨?_, ?_, ?_, ?_, ?_, htotal, ?_, ?_, ?_⟩
  · exact (card_words_record (fun m => decide (m.formatClass = .r)) fun I h => by rw [h]).trans (by decide)
  · exact (card_words_record (fun m => decide (m.formatClass = .i ∧ m ∉ regimm ∧ m ≠ .blez ∧ m ≠ .bgtz))
      fun I h => by rw [h]).trans (by decide)
  · exact (card_words_record (fun m => decide (m = .blez ∨ m = .bgtz)) fun _ _ => rfl).trans (by decide)
  · exact (card_words_record (fun m => decide (m ∈ regimm)) fun _ _ => rfl).trans (by decide)
  · exact (card_words_record (fun m => decide (m.formatClass = .j)) fun I h => by rw [h]).trans (by decide)
  · refine card_words_compl (fun w => ?_) htotal
    simp [Option.eq_none_iff_forall_ne_some]
  · exact (card_words_record (fun m => decide (m = .nop)) fun _ _ => rfl).trans (by decide)
  · exact (card_words_record (fun m => decide (m = .sll)) fun _ _ => rfl).trans (by decide)

/-- Settles O10: the classifier's table is compared with the list, and the word with all bits but the opcode 0 is
recognized for every other opcode. -/
theorem fortyOpcodesAreUnrecognized : Obligations.FortyOpcodesAreUnrecognized := by
  unfold Obligations.FortyOpcodesAreUnrecognized
  intro absent
  have habsent : ∀ opc : Opcode, classifier opc = none ↔ opc ∈ absent := by decide
  have hnone (c : Config) (w : Word) (h : opcodeOf w ∈ absent) : decodeRecord c w = none :=
    decodeRecord_of_resolve_none (resolve_of_class_none ((habsent _).mpr h))
  refine ⟨rfl, habsent, hnone, fun opc hopc => ?_, fun s hs => step_of_decodeRecord_none (hnone s.cfg _ hs)⟩
  exact ⟨encodeI opc 0#5 0#5 0#16, opcodeOf_encodeI .., recognized_of_classifier (mt (habsent opc).mp hopc)⟩

/-- Settles O11: under opcode 0 a word resolves exactly when its function code is in the table. -/
theorem thirtyNineFunctionCodesAreUnrecognized : Obligations.ThirtyNineFunctionCodesAreUnrecognized := by
  unfold Obligations.ThirtyNineFunctionCodesAreUnrecognized
  intro absent
  have habsent : ∀ funct : Funct, functTable funct = none ↔ funct ∈ absent := by decide
  have hres (w : Word) (h0 : opcodeOf w = 0x00#6) : resolve w = none ↔ functOf w ∈ absent :=
    (resolve_eq_none_iff_of_opcode_zero h0).trans (habsent _)
  have hnone (c : Config) (w : Word) (h0 : opcodeOf w = 0x00#6) (h : functOf w ∈ absent) : decodeRecord c w = none :=
    decodeRecord_of_resolve_none ((hres w h0).mpr h)
  exact ⟨rfl, habsent, hnone, fun w h0 => ⟨hres w h0, decodeRecord_default_eq_none_iff.trans (hres w h0)⟩,
    fun s h0 h => step_of_decodeRecord_none (hnone s.cfg _ h0 h)⟩

/-- Settles O12: under opcode 1 rt selects by the REGIMM table, under opcodes 6 and 7 only rt 0 is in it. -/
theorem selectorPairsAreUnrecognized : Obligations.SelectorPairsAreUnrecognized := by
  unfold Obligations.SelectorPairsAreUnrecognized
  intro regimmAbsent absent
  have hregimm : ∀ rt : Reg, regimmTable rt = none ↔ rt ∈ regimmAbsent := by decide
  have hres (w : Word) (h : opcodeOf w = 0x01#6 ∨ opcodeOf w = 0x06#6 ∨ opcodeOf w = 0x07#6) :
      resolve w = none ↔ absent w := by
    obtain h1 | h67 := h
    · rw [resolve_eq_none_iff_of_regimm h1, hregimm]
      simp [absent, h1]
    · rw [resolve_eq_none_iff_of_blez_bgtz h67]
      obtain ⟨-, h1, -⟩ := class_of_blez_bgtz h67
      simp [absent, h1, h67]
  have hnone (c : Config) (w : Word) (h : absent w) : decodeRecord c w = none :=
    decodeRecord_of_resolve_none ((hres w (h.imp And.left And.left)).mpr h)
  exact ⟨rfl, hres, hnone, by decide, fun s hs => step_of_decodeRecord_none (hnone s.cfg _ hs)⟩

/-- Settles O13: in each class the resolved mnemonic is a function of the fields that the premises fix. -/
theorem unusedFieldsDoNotSelect : Obligations.UnusedFieldsDoNotSelect := by
  intro w₁ w₂ hopc hr hregimm h67
  obtain hnone | h0 | hi | hj := opcode_cases (opcodeOf w₁)
  · rw [resolve_of_class_none hnone, resolve_of_class_none (hopc ▸ hnone)]
  · obtain ⟨hfunct, hshamt⟩ := hr h0
    rw [resolve_mnem_of_opcode_zero h0, resolve_mnem_of_opcode_zero (hopc ▸ h0), ← hfunct]
    simp only [and_congr_right hshamt]
  · rw [resolve_mnem_of_class_i hi, resolve_mnem_of_class_i (hopc ▸ hi), ← hopc]
    split
    · rw [hregimm ‹_›]
    · simp only [ne_eq, and_congr_right fun h => not_congr (h67 h)]
  · have hc : classifier (opcodeOf w₁) = some .j := by obtain h | h := hj <;> rw [h] <;> rfl
    rw [resolve_mnem_of_class_j hc, resolve_mnem_of_class_j (hopc ▸ hc), hopc]

/-- Settles O14: both sides test the resolved mnemonic, and the default RECOGNIZED_SET holds it. -/
theorem recognizedSetOnlyNarrows : Obligations.RecognizedSetOnlyNarrows := by
  refine ⟨mem_default_recognized, rfl, fun c w => ?_⟩
  cases hr : resolve w with
  | none => rw [decodeRecord_of_resolve_none hr, decodeRecord_of_resolve_none hr, Option.filter_none]
  | some p =>
    rw [decodeRecord_of_resolve hr, decodeRecord_of_resolve hr, if_pos (mem_default_recognized _), Option.filter_some]
    simp only [decide_eq_true_eq]

/-- Settles O17: a word with opcode 0 and function code 0 resolves by its shift amount. -/
theorem nopAndSllRowsDecodeAndRun : Obligations.NopAndSllRowsDecodeAndRun := by
  refine ⟨rowGives_of_resolve rfl rfl fun w ⟨h0, hfunct, hshamt⟩ => ?_,
    rowGives_of_resolve rfl rfl fun w ⟨h0, hfunct, hshamt⟩ => ?_⟩
  · rw [resolve_nop_row h0 hfunct hshamt, formatR, hfunct, hshamt]
  · rw [resolve_funct_row h0 (fun h => hshamt h.2) (by rw [hfunct]; rfl), formatR, hfunct]

end Sys2Proof.Machine
end

section
/-! SUPPORT. The way back from a decoded word to its encoding (40_dispatch.md R107, R109), the variant of a resolved format,
the opcode's alignment (R115), and the whole next state of a step (R105). -/

namespace Sys2Proof

/-! ### The encoding of the instruction that a table gives -/

section Encoding
variable {m : Mnemonic} {i : Instr} {rs rt rd : Reg} {imm : Imm} {target : Target}

/-- Function code 0 with shift amount 0 is `nop` before the table is read (30_encoding.md R68), which keeps `sll`
well-formed. -/
theorem wf_and_encode_of_functTable {funct : Funct} {shamt : Shamt} (hm : functTable funct = some m)
    (hi : Instr.ofR m rs rt rd shamt = some i) (hn : ¬(funct = 0x00#6 ∧ shamt = 0#5)) :
    i.wf = true ∧ encode i = encodeR rs rt rd shamt funct := by
  unfold functTable at hm
  split at hm <;> cases hm <;> cases hi
  case h_1 => exact ⟨decide_eq_true fun hs => hn ⟨rfl, hs⟩, rfl⟩
  all_goals exact ⟨rfl, rfl⟩

theorem wf_and_encode_of_regimmTable (hm : regimmTable rt = some m) (hi : Instr.ofI m rs rt imm = some i) :
    i.wf = true ∧ encode i = encodeI 0x01#6 rs rt imm := by
  unfold regimmTable at hm
  split at hm <;> cases hm <;> cases hi <;> exact ⟨rfl, rfl⟩

/-- `blez` and `bgtz` do not carry rt, so only the value 0 comes back (42_i_format.md R169). -/
theorem wf_and_encode_of_iOpTable {opc : Opcode} (hm : iOpTable opc = some m) (hi : Instr.ofI m rs rt imm = some i)
    (h67 : opc = 0x06#6 ∨ opc = 0x07#6 → rt = 0#5) : i.wf = true ∧ encode i = encodeI opc rs rt imm := by
  unfold iOpTable at hm
  split at hm <;> cases hm <;> cases hi
  case h_3 => rw [h67 (.inl rfl)]; exact ⟨rfl, rfl⟩
  case h_4 => rw [h67 (.inr rfl)]; exact ⟨rfl, rfl⟩
  all_goals exact ⟨rfl, rfl⟩

theorem wf_and_encode_of_jTable {opc : Opcode} (hm : jTable opc = some m) (hi : Instr.ofJ m target = some i) :
    i.wf = true ∧ encode i = encodeJ opc target := by
  unfold jTable at hm
  split at hm <;> cases hm <;> cases hi <;> exact ⟨rfl, rfl⟩

end Encoding

theorem resolve_of_decode {w : Word} {i : Instr} (h : decode w = some i) :
    ∃ m f, resolve w = some (m, f) ∧ Instr.ofResolved m f = some i := by
  cases hr : resolve w with
  | none => rw [decode_of_resolve_none hr] at h; cases h
  | some p => exact ⟨p.1, p.2, rfl, decode_eq_ofResolved hr ▸ h⟩

/-- The instruction of a resolution encodes to the layout of the word's own slices, which is the word. -/
theorem wf_and_encode_of_resolve {w : Word} {m : Mnemonic} {f : Format} {i : Instr} (hr : resolve w = some (m, f))
    (hi : Instr.ofResolved m f = some i) : i.wf = true ∧ encode i = w := by
  obtain ⟨h0, rfl, ⟨hfunct, hshamt, rfl⟩ | ⟨hn, hm⟩⟩ | ⟨-, rfl, ⟨h1, hm⟩ | ⟨-, h67, hm⟩⟩ | ⟨rfl, hm⟩ := resolve_cases hr
  · cases hi
    refine ⟨rfl, ?_⟩
    rw [encode, ← hshamt, ← hfunct, encodeR_slices h0]
  · obtain ⟨hwf, henc⟩ := wf_and_encode_of_functTable hm hi hn
    exact ⟨hwf, henc.trans (encodeR_slices h0)⟩
  · obtain ⟨hwf, henc⟩ := wf_and_encode_of_regimmTable hm hi
    exact ⟨hwf, henc.trans (h1 ▸ encodeI_slices w)⟩
  · obtain ⟨hwf, henc⟩ := wf_and_encode_of_iOpTable hm hi h67
    exact ⟨hwf, henc.trans (encodeI_slices w)⟩
  · obtain ⟨hwf, henc⟩ := wf_and_encode_of_jTable hm hi
    exact ⟨hwf, henc.trans (encodeJ_slices w)⟩

/-! ### The variant of a resolved format -/

/-- The word's own fields in the variant of a format class. -/
def formatOf : FormatClass → Word → Format
  | .r => formatR
  | .i => formatI
  | .j => formatJ

theorem format_of_resolve {w : Word} {m : Mnemonic} {f : Format} (h : resolve w = some (m, f)) :
    classifier (opcodeOf w) = some f.formatClass ∧ f = formatOf f.formatClass w := by
  obtain ⟨h0, rfl, -⟩ | ⟨hc, rfl, -⟩ | ⟨rfl, hm⟩ := resolve_cases h
  · exact ⟨h0 ▸ rfl, rfl⟩
  · exact ⟨hc, rfl⟩
  · exact ⟨jTable_class hm, rfl⟩

/-! ### The opcode's alignment -/

/-- The two six-bit windows of seven bits agree only when each bit equals its neighbour. -/
theorem windows_eq_iff_uniform (t : BitVec 7) :
    t.extractLsb' 1 6 = t.extractLsb' 0 6 ↔ t = 0x00#7 ∨ t = 0x7F#7 := by
  revert t; decide

theorem extractLsb'_extractLsb'_of_add_le {n lo k lo' len : Nat} (x : BitVec n) (h : lo' + len ≤ k) :
    (x.extractLsb' lo k).extractLsb' lo' len = x.extractLsb' (lo + lo') len := by
  ext i hi
  rw [BitVec.getElem_extractLsb', BitVec.getLsbD_extractLsb', BitVec.getElem_extractLsb', decide_eq_true (by omega),
    Bool.true_and, Nat.add_assoc]

theorem opcodeOf_eq_high_window (w : Word) : opcodeOf w = (w.extractLsb' 25 7).extractLsb' 1 6 := by
  rw [extractLsb'_extractLsb'_of_add_le w (by decide), opcodeOf]

theorem low_window_eq (w : Word) : w.extractLsb' 25 6 = (w.extractLsb' 25 7).extractLsb' 0 6 := by
  rw [extractLsb'_extractLsb'_of_add_le w (by decide)]

/-! ### RECOGNIZED_SET is a set -/

/-- Only membership in RECOGNIZED_SET counts (log entry 20). -/
theorem decodeRecord_congr {c₁ c₂ : Config} (h : ∀ m, m ∈ c₁.recognized ↔ m ∈ c₂.recognized) (w : Word) :
    decodeRecord c₁ w = decodeRecord c₂ w :=
  Option.ext fun I => by rw [decodeRecord_eq_some, decodeRecord_eq_some, h]

namespace Machine

/-- Every field of the state after an evaluation of the supplier's next word. -/
theorem present_conclude (r : Option Instruction) (s : State) :
    s.present.conclude r =
      { cfg := s.cfg, word := s.nextWord, result := r, supply := s.supply.tail, emitted := s.emitted ++ [r] } := by
  rw [State.conclude, State.present_cfg, State.present_word, State.present_supply, State.present_emitted]

end Machine

end Sys2Proof
end

section
/-! PROOFS. The statements about the dispatch (40_dispatch.md). -/

namespace Sys2Proof.Machine

/-- Settles O4: a decoded word was resolved by one of the tables, whose entry encodes back to the word's own slices. -/
theorem encodeOfDecodeIsTheWord : Obligations.EncodeOfDecodeIsTheWord := by
  intro w i h
  obtain ⟨m, f, hr, hi⟩ := resolve_of_decode h
  exact wf_and_encode_of_resolve hr hi

/-- Settles O15: a record is its word's resolution, whose format is the word's own slices and whose mnemonic is the one of
the mask and match table. -/
theorem decodedRecordIsTheWordsOwn : Obligations.DecodedRecordIsTheWordsOwn := by
  intro c w I h
  obtain ⟨-, hraw, hr⟩ := decodeRecord_eq_some.mp h
  obtain ⟨hclass, hown⟩ := format_of_resolve hr
  have hrow : rowLookup w = some I.mnem := by rw [rowLookup_eq_resolve, hr]; rfl
  refine ⟨hraw, hclass, ?_, ?_, ?_, hrow, (formatClass_of_decodeRecord h).symm⟩
  · intro rs rt rd shamt funct hf
    rw [hf] at hown
    exact Format.r.inj hown
  · intro rs rt imm hf
    rw [hf] at hown
    exact Format.i.inj hown
  · intro target hf
    rw [hf] at hown
    exact Format.j.inj hown

/-- Settles O16: both slices are windows of bits 31 to 25. The word 0x40000000 has three different readings. -/
theorem opcodeAlignmentsAgreeOnlyOnUniformTopBits : Obligations.OpcodeAlignmentsAgreeOnlyOnUniformTopBits := by
  refine ⟨fun w => ⟨?_, ?_, ?_⟩, ⟨0x40000000#32, by decide⟩, ⟨0x40000000#32, by decide⟩⟩
  · rw [opcodeOf_eq_high_window, low_window_eq, windows_eq_iff_uniform]
  · intro h; rw [opcodeOf_eq_high_window, h]; rfl
  · intro h; rw [opcodeOf_eq_high_window, h]; rfl

/-- Settles O40: a step concludes the record of the word it presents, and that fixes every field. -/
theorem stepComputesDecodeOfTheNextWord : Obligations.StepComputesDecodeOfTheNextWord := by
  intro s
  rw [step_eq_conclude, present_conclude]

/-- Settles O41: the record that a step concludes is either absent or its word's resolution. -/
theorem everyStepGoesOn : Obligations.EveryStepGoesOn := by
  intro s
  refine ⟨_, step_eq_conclude s, ?_⟩
  rw [State.conclude_result, State.conclude_word, State.present_word]
  cases hd : decodeRecord s.cfg s.nextWord with
  | none => exact .inl rfl
  | some I =>
    obtain ⟨-, hraw, hr⟩ := decodeRecord_eq_some.mp hd
    exact .inr ⟨I.mnem, I.fmt, hraw ▸ rfl, hr⟩

/-- Settles O45: the result and the ports after a step are functions of the next word's record. -/
theorem resultDependsOnTheWordAlone : Obligations.ResultDependsOnTheWordAlone := by
  intro s₁ s₂ t₁ t₂ hword hset h₁ h₂
  have hrec : decodeRecord s₁.cfg s₁.nextWord = decodeRecord s₂.cfg s₂.nextWord := by
    rw [hword, decodeRecord_congr hset]
  refine ⟨?_, ?_⟩
  · rw [eq_conclude_of_step h₁, eq_conclude_of_step h₂, State.conclude_result, State.conclude_result, hrec]
  · rw [ports_of_step h₁, ports_of_step h₂, hrec]

end Sys2Proof.Machine
end

section
/-! SUPPORT. What the rows of the R format share: the promise of a row that a nonzero function code selects (41_r_format.md
R129), and the completion of an instruction by the record it carries (40_dispatch.md R104). -/

namespace Sys2Proof.Machine

/-- Only function code 0 needs the no-op test before the table is read (30_encoding.md R68). -/
theorem rowGives_of_functTable {m : Mnemonic} {code : BitVec 6} {text : String} {funct : Funct} (hcode : m.code = code)
    (htext : m.text = text) (hm : functTable funct = some m) (hne : funct ≠ 0x00#6) :
    RowGives m code text (fun w => opcodeOf w = 0x00#6 ∧ functOf w = funct)
      (fun w => .r (rsOf w) (rtOf w) (rdOf w) (shamtOf w) funct) := by
  refine rowGives_of_resolve hcode htext fun w ⟨h0, hfunct⟩ => ?_
  subst hfunct
  exact resolve_funct_row h0 (fun h => hne h.1) hm

/-- An instruction emits the mnemonic and format that it carries, whichever instruction it is. -/
theorem completes_of_carries {i : Instr} {m : Mnemonic} {f : Format} (h : i.Carries m f) : Completes i m f := by
  obtain ⟨rfl, rfl⟩ := h
  exact fun s => ⟨_, (exec_eq_emit i s).trans (emit_eq ..), emit_emits ..⟩

theorem decode_of_encode_eq {i : Instr} {w : Word} (hwf : i.wf = true) (hw : encode i = w) : decode w = some i := by
  rw [← hw]
  exact decodeOfEncodeIsTheInstruction i hwf

end Sys2Proof.Machine
end

section
/-! PROOFS. The statements about the R format (41_r_format.md), and the words written out from the encoding lines. -/

namespace Sys2Proof.Machine

/-- Settles O18: the function codes of the other shifts are nonzero entries of the table. -/
theorem shiftRowsDecodeAndRun : Obligations.ShiftRowsDecodeAndRun := by
  refine ⟨?_, ?_, ?_, ?_, ?_⟩ <;> exact rowGives_of_functTable rfl rfl rfl (by decide)

/-- Settles O19: the function codes of the register jumps, `syscall`, `mfhi` and `mflo` are nonzero entries of the table. -/
theorem registerJumpAndSpecialRowsDecodeAndRun : Obligations.RegisterJumpAndSpecialRowsDecodeAndRun := by
  refine ⟨?_, ?_, ?_, ?_, ?_⟩ <;> exact rowGives_of_functTable rfl rfl rfl (by decide)

/-- Settles O20: the function codes of the multiplications and divisions are nonzero entries of the table. -/
theorem multiplyDivideRowsDecodeAndRun : Obligations.MultiplyDivideRowsDecodeAndRun := by
  refine ⟨?_, ?_, ?_, ?_⟩ <;> exact rowGives_of_functTable rfl rfl rfl (by decide)

/-- Settles O21: the function codes of the additions, subtractions and comparisons are nonzero entries of the table. -/
theorem arithmeticRowsDecodeAndRun : Obligations.ArithmeticRowsDecodeAndRun := by
  refine ⟨?_, ?_, ?_, ?_, ?_, ?_⟩ <;> exact rowGives_of_functTable rfl rfl rfl (by decide)

/-- Settles O22: the function codes of the logical operations are nonzero entries of the table. -/
theorem logicalRowsDecodeAndRun : Obligations.LogicalRowsDecodeAndRun := by
  refine ⟨?_, ?_, ?_, ?_⟩ <;> exact rowGives_of_functTable rfl rfl rfl (by decide)

/-- Settles O2: each word is the encoding of a well-formed instruction, which decodes to itself. -/
theorem writtenOutWordsDecode : Obligations.WrittenOutWordsDecode := by
  refine ⟨?_, ?_, ?_, ?_, ?_, ?_⟩ <;> exact decode_of_encode_eq rfl rfl

/-- Settles O28: `nop` carries shift amount 0 and function code 0, `sll` its own shift amount. -/
theorem nopAndSllCompletes : Obligations.NopAndSllCompletes := by
  intro rs rt rd shamt
  refine ⟨?_, ?_⟩ <;> exact completes_of_carries ⟨rfl, rfl⟩

/-- Settles O29: each of the other shifts carries its operands and its function code. -/
theorem shiftCompletes : Obligations.ShiftCompletes := by
  intro rs rt rd shamt
  refine ⟨?_, ?_, ?_, ?_, ?_⟩ <;> exact completes_of_carries ⟨rfl, rfl⟩

/-- Settles O30: the register jumps, `syscall`, `mfhi` and `mflo` carry their operands and their function code. -/
theorem registerJumpAndSpecialCompletes : Obligations.RegisterJumpAndSpecialCompletes := by
  intro rs rt rd shamt
  refine ⟨?_, ?_, ?_, ?_, ?_⟩ <;> exact completes_of_carries ⟨rfl, rfl⟩

/-- Settles O31: the multiplications and divisions carry their operands and their function code. -/
theorem multiplyDivideCompletes : Obligations.MultiplyDivideCompletes := by
  intro rs rt rd shamt
  refine ⟨?_, ?_, ?_, ?_⟩ <;> exact completes_of_carries ⟨rfl, rfl⟩

/-- Settles O32: the additions, subtractions and comparisons carry their operands and their function code. -/
theorem arithmeticCompletes : Obligations.ArithmeticCompletes := by
  intro rs rt rd shamt
  refine ⟨?_, ?_, ?_, ?_, ?_, ?_⟩ <;> exact completes_of_carries ⟨rfl, rfl⟩

/-- Settles O33: the logical operations carry their operands and their function code. -/
theorem logicalCompletes : Obligations.LogicalCompletes := by
  intro rs rt rd shamt
  refine ⟨?_, ?_, ?_, ?_⟩ <;> exact completes_of_carries ⟨rfl, rfl⟩

end Sys2Proof.Machine
end

section
/-! SUPPORT. What the rows of the I format share: the promise of a row that an entry of the REGIMM table selects, of one that
an opcode selects together with rt 0, and of one that the opcode alone selects (42_i_format.md R169). -/

namespace Sys2Proof.Machine

section IRows
variable {m : Mnemonic} {code : BitVec 6} {text : String} {opc : Opcode} {rt : Reg}

theorem rowGives_of_regimmTable (hcode : m.code = code) (htext : m.text = text) (hm : regimmTable rt = some m) :
    RowGives m code text (fun w => opcodeOf w = 0x01#6 ∧ rtOf w = rt) (fun w => .i (rsOf w) rt (immOf w)) := by
  refine rowGives_of_resolve hcode htext fun w ⟨h1, hrt⟩ => ?_
  subst hrt
  exact resolve_regimm_row h1 hm

/-- Where the condition of the row fixes rt at 0, the test of `blez` and `bgtz` for a nonzero rt cannot fail. -/
theorem rowGives_of_iOpTable_rt_zero (hcode : m.code = code) (htext : m.text = text) (hm : iOpTable opc = some m) :
    RowGives m code text (fun w => opcodeOf w = opc ∧ rtOf w = 0x00#5) (fun w => .i (rsOf w) 0x00#5 (immOf w)) := by
  refine rowGives_of_resolve hcode htext fun w ⟨hopc, hrt⟩ => ?_
  subst hopc
  obtain ⟨hc, h1⟩ := iOpTable_class hm
  rw [resolve_opcode_row hc h1 (fun _ => hrt) hm, formatI, hrt]

/-- Only `blez` and `bgtz` look at rt, so under every other opcode of the table rt is free. -/
theorem rowGives_of_iOpTable (hcode : m.code = code) (htext : m.text = text) (hm : iOpTable opc = some m)
    (h67 : ¬(opc = 0x06#6 ∨ opc = 0x07#6)) :
    RowGives m code text (fun w => opcodeOf w = opc) (fun w => .i (rsOf w) (rtOf w) (immOf w)) := by
  refine rowGives_of_resolve hcode htext fun w hopc => ?_
  subst hopc
  obtain ⟨hc, h1⟩ := iOpTable_class hm
  exact resolve_opcode_row hc h1 (fun h => absurd h h67) hm

end IRows

end Sys2Proof.Machine
end

section
/-! PROOFS. The statements about the I format (42_i_format.md). -/

namespace Sys2Proof.Machine

/-- Settles O23: the selectors of the four branches are the entries of the REGIMM table. -/
theorem regimmBranchRowsDecodeAndRun : Obligations.RegimmBranchRowsDecodeAndRun := by
  refine ⟨?_, ?_, ?_, ?_⟩ <;> exact rowGives_of_regimmTable rfl rfl rfl

/-- Settles O24: `beq` and `bne` leave rt free; `blez` and `bgtz` fix it at 0, and a nonzero rt is in no table. -/
theorem compareBranchRowsDecodeAndRun : Obligations.CompareBranchRowsDecodeAndRun := by
  refine ⟨?beq, ?bne, ?blez, ?bgtz, fun w ⟨h67, hrt⟩ => (resolve_eq_none_iff_of_blez_bgtz h67).mpr hrt⟩
  case beq | bne => exact rowGives_of_iOpTable rfl rfl rfl (by decide)
  case blez | bgtz => exact rowGives_of_iOpTable_rt_zero rfl rfl rfl

/-- Settles O25: the opcodes of the immediate operations are entries of the I-format table other than 6 and 7. -/
theorem immediateRowsDecodeAndRun : Obligations.ImmediateRowsDecodeAndRun := by
  refine ⟨?_, ?_, ?_, ?_, ?_, ?_, ?_, ?_⟩ <;> exact rowGives_of_iOpTable rfl rfl rfl (by decide)

/-- Settles O26: the opcodes of the loads and stores are entries of the I-format table other than 6 and 7. -/
theorem loadStoreRowsDecodeAndRun : Obligations.LoadStoreRowsDecodeAndRun := by
  refine ⟨?_, ?_, ?_, ?_, ?_, ?_, ?_, ?_⟩ <;> exact rowGives_of_iOpTable rfl rfl rfl (by decide)

/-- Settles O34: each REGIMM branch carries rs, its own selector as rt, and the immediate. -/
theorem regimmBranchCompletes : Obligations.RegimmBranchCompletes := by
  intro rs imm
  refine ⟨?_, ?_, ?_, ?_⟩ <;> exact completes_of_carries ⟨rfl, rfl⟩

/-- Settles O35: `beq` and `bne` carry all their operands, `blez` and `bgtz` rt 0. -/
theorem compareBranchCompletes : Obligations.CompareBranchCompletes := by
  intro rs rt imm
  refine ⟨?_, ?_, ?_, ?_⟩ <;> exact completes_of_carries ⟨rfl, rfl⟩

/-- Settles O36: the immediate operations carry rs, rt and the raw immediate. -/
theorem immediateCompletes : Obligations.ImmediateCompletes := by
  intro rs rt imm
  refine ⟨?_, ?_, ?_, ?_, ?_, ?_, ?_, ?_⟩ <;> exact completes_of_carries ⟨rfl, rfl⟩

/-- Settles O37: the loads and stores carry rs, rt and the raw immediate; nothing is loaded or stored. -/
theorem loadStoreCompletes : Obligations.LoadStoreCompletes := by
  intro rs rt imm
  refine ⟨?_, ?_, ?_, ?_, ?_, ?_, ?_, ?_⟩ <;> exact completes_of_carries ⟨rfl, rfl⟩

end Sys2Proof.Machine
end

section
/-! SUPPORT. The promise of a row of the J format: its opcode alone selects it, and no other field is tested (43_j_format.md
R209). -/

namespace Sys2Proof.Machine

theorem rowGives_of_jTable {m : Mnemonic} {code : BitVec 6} {text : String} {opc : Opcode} (hcode : m.code = code)
    (htext : m.text = text) (hm : jTable opc = some m) :
    RowGives m code text (fun w => opcodeOf w = opc) (fun w => .j (targetOf w)) := by
  refine rowGives_of_resolve hcode htext fun w hopc => ?_
  subst hopc
  exact resolve_jump_row (jTable_class hm) hm

end Sys2Proof.Machine
end

section
/-! PROOFS. The statements about the J format (43_j_format.md). -/

namespace Sys2Proof.Machine

/-- Settles O27: the opcodes 2 and 3 are the two entries of the J-format table. -/
theorem jumpRowsDecodeAndRun : Obligations.JumpRowsDecodeAndRun :=
  ⟨rowGives_of_jTable rfl rfl rfl, rowGives_of_jTable rfl rfl rfl⟩

/-- Settles O38: both jumps carry the raw target; no address is computed from it. -/
theorem jumpCompletes : Obligations.JumpCompletes :=
  fun _ => ⟨completes_of_carries ⟨rfl, rfl⟩, completes_of_carries ⟨rfl, rfl⟩⟩

end Sys2Proof.Machine
end

section
/-! SUPPORT. The digits of a field as the library's digits (44_renderer.md R222, R223), the line of each format (R224 to
R228), and the record of a word that a function code selects. -/

namespace Sys2Proof

/-! ### The digits of a field -/

/-- While the fuel bounds the number of digits, they are the library's, which come least significant first. -/
theorem digitsOf_eq_reverse_digits {base fuel n : Nat} (hb : 1 < base) (hn : n ≠ 0) (hfuel : n < base ^ fuel) :
    digitsOf base fuel n = (Nat.digits base n).reverse := by
  induction fuel generalizing n with
  | zero => exact absurd (Nat.lt_one_iff.mp hfuel) hn
  | succ fuel ih =>
    rw [digitsOf]
    split
    case isTrue hlt => rw [Nat.digits_of_lt base n hn hlt, List.reverse_singleton]
    case isFalse hge =>
      have hquot : n / base ≠ 0 := (Nat.div_pos (not_lt.mp hge) (by omega)).ne'
      have hbound : n / base < base ^ fuel := Nat.div_lt_of_lt_mul (by rwa [← pow_succ'])
      rw [ih hquot hbound, Nat.digits_def' hb (Nat.pos_of_ne_zero hn), List.reverse_cons]

section Digits
variable {width base : Nat} {v : BitVec width}

theorem fieldDigits_of_eq_zero (hb : 1 < base) (hv : v.toNat = 0) : fieldDigits base v = [0] := by
  rw [fieldDigits, hv, digitsOf, if_pos (by omega)]

theorem fieldDigits_of_ne_zero (hb : 1 < base) (hv : v.toNat ≠ 0) :
    fieldDigits base v = (Nat.digits base v.toNat).reverse := by
  have hbound : v.toNat < base ^ (width + 1) :=
    calc v.toNat < 2 ^ width := v.isLt
      _ ≤ base ^ width := Nat.pow_le_pow_left hb width
      _ ≤ base ^ (width + 1) := Nat.pow_le_pow_right (by omega) (Nat.le_succ width)
  exact digitsOf_eq_reverse_digits hb hv hbound

theorem fieldDigits_value (hb : 1 < base) : (fieldDigits base v).foldl (fun n d => n * base + d) 0 = v.toNat := by
  by_cases hv : v.toNat = 0
  · rw [fieldDigits_of_eq_zero hb hv, hv]; simp
  · calc (fieldDigits base v).foldl (fun n d => n * base + d) 0
      _ = Nat.ofDigits base (Nat.digits base v.toNat) := by
        rw [fieldDigits_of_ne_zero hb hv, List.foldl_reverse, Nat.ofDigits_eq_foldr]
        simp only [Nat.cast_id, Nat.add_comm, Nat.mul_comm]
      _ = v.toNat := Nat.ofDigits_digits base v.toNat

theorem lt_of_mem_fieldDigits (hb : 1 < base) {d : Nat} (hd : d ∈ fieldDigits base v) : d < base := by
  by_cases hv : v.toNat = 0
  · rw [fieldDigits_of_eq_zero hb hv, List.mem_singleton] at hd
    omega
  · rw [fieldDigits_of_ne_zero hb hv, List.mem_reverse] at hd
    exact Nat.digits_lt_base hb hd

/-- The first digit is the library's last one, which is not 0 for a value other than 0. -/
theorem eq_zero_of_fieldDigits_eq_zero_cons (hb : 1 < base) {rest : List Nat} (h : fieldDigits base v = 0 :: rest) :
    rest = [] ∧ v.toNat = 0 := by
  by_cases hv : v.toNat = 0
  · rw [fieldDigits_of_eq_zero hb hv] at h
    exact ⟨(List.cons.inj h).2.symm, hv⟩
  · rw [fieldDigits_of_ne_zero hb hv, List.reverse_eq_cons_iff] at h
    refine absurd ?_ (Nat.getLast_digit_ne_zero base hv)
    simp only [h, List.getLast_concat]

end Digits

/-! ### The line of each format -/

/-- A separator and a register token (44_renderer.md R222, R224). -/
theorem append_space_regToken (line : String) (r : Reg) : line ++ " " ++ regToken r = line ++ " $" ++ decToken r := by
  have hjoin : line ++ " " ++ "$" = line ++ " $" := String.append_assoc
  rw [regToken, ← String.append_assoc, hjoin]

section Lines
variable (verbose : Bool) (raw : Word) (m : Mnemonic) (rs rt rd : Reg) (shamt : Shamt) (funct : Funct) (imm : Imm)

theorem render_r_canonical :
    render false ⟨raw, m, .r rs rt rd shamt funct⟩ =
      m.text ++ " $" ++ decToken rs ++ " $" ++ decToken rt ++ " $" ++ decToken rd := by
  simp only [render, append_space_regToken]
  exact String.append_empty

/-- The verbose line of an R record is its canonical line with the two other fields behind it (44_renderer.md R225). -/
theorem render_r_verbose :
    render true ⟨raw, m, .r rs rt rd shamt funct⟩ =
      render false ⟨raw, m, .r rs rt rd shamt funct⟩ ++ " " ++ hexToken shamt ++ " " ++ hexToken funct := by
  simp [render, String.append_assoc]

/-- The registers are all that the canonical line of an R record shows of its fields (44_renderer.md R230). -/
theorem render_r_canonical_irrel (raw₁ raw₂ : Word) (shamt₁ shamt₂ : Shamt) (funct₁ funct₂ : Funct) :
    render false ⟨raw₁, m, .r rs rt rd shamt₁ funct₁⟩ = render false ⟨raw₂, m, .r rs rt rd shamt₂ funct₂⟩ := by
  rw [render_r_canonical, render_r_canonical]

theorem render_i :
    render verbose ⟨raw, m, .i rs rt imm⟩ =
      m.text ++ " $" ++ decToken rs ++ " $" ++ decToken rt ++ " " ++ hexToken imm := by
  simp only [render, append_space_regToken]

theorem render_j (target : Target) : render verbose ⟨raw, m, .j target⟩ = m.text ++ " " ++ hexToken target := rfl

/-- `render` looks at the mnemonic and the format only (44_renderer.md R228). -/
theorem render_raw_irrel (raw₁ raw₂ : Word) (f : Format) :
    render verbose ⟨raw₁, m, f⟩ = render verbose ⟨raw₂, m, f⟩ := rfl

end Lines

/-! ### The record of a word that a function code selects -/

/-- Only a nonzero function code selects without looking at shamt (30_encoding.md R68). -/
theorem decodeRecord_encodeR_of_functTable (rs rt rd : Reg) (shamt : Shamt) {m : Mnemonic} {funct : Funct}
    (hm : functTable funct = some m) (hne : funct ≠ 0x00#6) :
    decodeRecord Config.default (encodeR rs rt rd shamt funct) =
      some ⟨encodeR rs rt rd shamt funct, m, .r rs rt rd shamt funct⟩ := by
  rw [decodeRecord_of_resolve (resolve_funct_row (by simp) (by simp [hne]) (by simpa using hm)),
    if_pos (mem_default_recognized m)]
  simp [formatR]

end Sys2Proof
end

section
/-! PROOFS. The statements about the renderer (44_renderer.md). -/

namespace Sys2Proof.Machine

/-- Settles O54: the digits of a field other than 0 are the library's in reverse, and 0 has the one digit 0. -/
theorem tokensReadBackToTheirValue : Obligations.TokensReadBackToTheirValue := by
  refine ⟨fun width v base hbase => ?_, fun width v => ⟨String.toList_ofList, String.toList_ofList⟩, by decide⟩
  have hb : 1 < base := by omega
  exact ⟨fieldDigits_value hb, fun d => lt_of_mem_fieldDigits hb, fun rest => eq_zero_of_fieldDigits_eq_zero_cons hb,
    fieldDigits_of_eq_zero hb⟩

/-- Settles O55: no line looks at raw, and the canonical R line shows the registers only. The two words of the
pair keep their own shift amounts, so they differ. -/
theorem canonicalRenderingForgetsTheShift : Obligations.CanonicalRenderingForgetsTheShift := by
  refine ⟨fun verbose raw₁ raw₂ m f => render_raw_irrel verbose m raw₁ raw₂ f, ?_, ?_⟩
  · exact fun raw₁ raw₂ m rs rt rd => render_r_canonical_irrel m rs rt rd raw₁ raw₂
  · intro rs rt rd shamt₁ shamt₂ hne
    have hraw : encodeR rs rt rd shamt₁ 0x21#6 ≠ encodeR rs rt rd shamt₂ 0x21#6 :=
      fun h => hne (by simpa using congrArg shamtOf h)
    exact ⟨_, _, decodeRecord_encodeR_of_functTable rs rt rd shamt₁ rfl (by decide),
      decodeRecord_encodeR_of_functTable rs rt rd shamt₂ rfl (by decide), hraw, render_r_canonical_irrel ..⟩

/-- Settles O53: every register token follows a separator, and the verbose R line extends the canonical one. -/
theorem renderedLinesHaveTheirForm : Obligations.RenderedLinesHaveTheirForm := by
  refine ⟨fun raw m rs rt rd shamt funct => ⟨render_r_canonical .., ?_⟩, render_i, render_j⟩
  rw [render_r_verbose, render_r_canonical]

end Sys2Proof.Machine
end

section
/-! SUPPORT. When a word is unrecognized (60_exceptions.md R240): the words that do not resolve, the records that
RECOGNIZED_SET withholds, the cause that `rejection` names in the order of R243, and the words of syscall and break (R247). -/

namespace Sys2Proof

/-! ### The words that do not resolve -/

theorem classifier_eq_r_iff {opc : Opcode} : classifier opc = some .r ↔ opc = 0x00#6 :=
  ⟨classifier_r, fun h => h ▸ rfl⟩

theorem iOpTable_ne_none {opc : Opcode} (hc : classifier opc = some .i) (h1 : opc ≠ 0x01#6) : iOpTable opc ≠ none := by
  revert opc; decide

theorem jTable_ne_none {opc : Opcode} (hc : classifier opc = some .j) : jTable opc ≠ none := by
  revert opc; decide

/-- Outside opcodes 1, 6 and 7 the opcode of an I-format word selects alone (30_encoding.md R71). -/
theorem resolve_ne_none_of_opcode_selects {w : Word} (hc : classifier (opcodeOf w) = some .i) (h1 : opcodeOf w ≠ 0x01#6)
    (h67 : ¬(opcodeOf w = 0x06#6 ∨ opcodeOf w = 0x07#6)) : resolve w ≠ none := by
  obtain ⟨m, hm⟩ := Option.ne_none_iff_exists'.mp (iOpTable_ne_none hc h1)
  simp [resolve_opcode_row hc h1 (fun h => absurd h h67) hm]

/-- Every J-format word resolves (43_j_format.md R209). -/
theorem resolve_ne_none_of_class_j {w : Word} (hc : classifier (opcodeOf w) = some .j) : resolve w ≠ none := by
  obtain ⟨m, hm⟩ := Option.ne_none_iff_exists'.mp (jTable_ne_none hc)
  simp [resolve_jump_row hc hm]

/-- Cases (a), (b) and (c) of 60_exceptions.md R240. -/
theorem resolve_eq_none_iff {w : Word} :
    resolve w = none ↔
      classifier (opcodeOf w) = none ∨
      (opcodeOf w = 0x00#6 ∧ functTable (functOf w) = none) ∨
      (opcodeOf w = 0x01#6 ∧ regimmTable (rtOf w) = none) ∨
      ((opcodeOf w = 0x06#6 ∨ opcodeOf w = 0x07#6) ∧ rtOf w ≠ 0#5) := by
  constructor
  · intro hr
    cases hc : classifier (opcodeOf w) with
    | none => exact .inl rfl
    | some cls =>
      refine .inr ?_
      cases cls with
      | r =>
        have h0 := classifier_r hc
        exact .inl ⟨h0, (resolve_eq_none_iff_of_opcode_zero h0).mp hr⟩
      | i =>
        by_cases h1 : opcodeOf w = 0x01#6
        · exact .inr (.inl ⟨h1, (resolve_eq_none_iff_of_regimm h1).mp hr⟩)
        · by_cases h67 : opcodeOf w = 0x06#6 ∨ opcodeOf w = 0x07#6
          · exact .inr (.inr ⟨h67, (resolve_eq_none_iff_of_blez_bgtz h67).mp hr⟩)
          · exact absurd hr (resolve_ne_none_of_opcode_selects hc h1 h67)
      | j => exact absurd hr (resolve_ne_none_of_class_j hc)
  · rintro (hc | ⟨h0, hfunct⟩ | ⟨h1, hrt⟩ | ⟨h67, hrt⟩)
    · exact resolve_of_class_none hc
    · exact (resolve_eq_none_iff_of_opcode_zero h0).mpr hfunct
    · exact (resolve_eq_none_iff_of_regimm h1).mpr hrt
    · exact (resolve_eq_none_iff_of_blez_bgtz h67).mpr hrt

theorem functAbsent_iff_class_r {w : Word} :
    opcodeOf w = 0x00#6 ∧ functTable (functOf w) = none ↔ classifier (opcodeOf w) = some .r ∧ resolve w = none := by
  rw [classifier_eq_r_iff]
  exact and_congr_right fun h0 => (resolve_eq_none_iff_of_opcode_zero h0).symm

/-! ### The records that RECOGNIZED_SET withholds -/

theorem decodeRecord_eq_none_iff {c : Config} {w : Word} :
    decodeRecord c w = none ↔ resolve w = none ∨ ∃ m f, resolve w = some (m, f) ∧ m ∉ c.recognized := by
  cases hr : resolve w with
  | none => simp [decodeRecord_of_resolve_none hr]
  | some p =>
    obtain ⟨m, f⟩ := p
    simp [decodeRecord_of_resolve hr]

/-! ### The cause that `rejection` names -/

section Rejection
variable {c : Config} {w : Word}

theorem rejection_of_class_none (hc : classifier (opcodeOf w) = none) : rejection c w = some .opcodeAbsent := by
  unfold rejection; rw [hc]

theorem rejection_of_resolve_none {cls : FormatClass} (hc : classifier (opcodeOf w) = some cls) (hr : resolve w = none) :
    rejection c w = some (Cause.ofClass cls) := by
  unfold rejection; rw [hc, hr]

theorem rejection_of_resolve {m : Mnemonic} {f : Format} (hr : resolve w = some (m, f)) :
    rejection c w = if m ∈ c.recognized then none else some .notRecognized := by
  unfold rejection; rw [(format_of_resolve hr).1, hr]; simp [Config.recognizes]

end Rejection

/-! ### The words of syscall and break -/

theorem resolve_syscall {w : Word} (h0 : opcodeOf w = 0x00#6) (hfunct : functOf w = 0x0C#6) :
    resolve w = some (.syscall, formatR w) :=
  resolve_funct_row h0 (by simp [hfunct]) (by rw [hfunct]; rfl)

theorem resolve_break {w : Word} (h0 : opcodeOf w = 0x00#6) (hfunct : functOf w = 0x0D#6) : resolve w = none :=
  (resolve_eq_none_iff_of_opcode_zero h0).mpr (by rw [hfunct]; rfl)

namespace Machine

theorem nextWord_after_conclude_of_supply {s : State} {w v : Word} {rest : List Word} (h : s.supply = w :: v :: rest)
    (r : Option Instruction) : (s.present.conclude r).nextWord = v := by
  have hsupply : (s.present.conclude r).supply = v :: rest := by simp [h]
  rw [State.nextWord, State.present_cons hsupply]

end Machine

end Sys2Proof
end

section
/-! PROOFS. The statements about unrecognized words (60_exceptions.md). -/

namespace Sys2Proof.Machine

/-- Settles O8: a record is absent when its word does not resolve, which are cases (a) to (c), or when the resolved
mnemonic is withheld. -/
theorem unrecognizedInExactlyFourCases : Obligations.UnrecognizedInExactlyFourCases := by
  refine ⟨fun c w => ?_, rfl, mem_default_recognized⟩
  rw [decodeRecord_eq_none_iff, resolve_eq_none_iff]
  simp only [or_assoc]

/-- Settles O9: the class and the resolution of a word fix its cause, and (b) is the failed resolution of class R. -/
theorem rejectionNamesACauseExactlyForUnrecognizedWords :
    Obligations.RejectionNamesACauseExactlyForUnrecognizedWords := by
  intro c w
  rw [functAbsent_iff_class_r]
  cases hr : resolve w with
  | none =>
    rw [decodeRecord_of_resolve_none hr]
    cases hc : classifier (opcodeOf w) with
    | none => simp [rejection_of_class_none hc]
    | some cls =>
      rw [rejection_of_resolve_none hc hr]
      cases cls with
      | r => simp [Cause.ofClass]
      | i => simp [Cause.ofClass]
      | j => exact absurd hr (resolve_ne_none_of_class_j hc)
  | some p =>
    obtain ⟨m, f⟩ := p
    rw [rejection_of_resolve hr, decodeRecord_of_resolve hr, (format_of_resolve hr).1]
    by_cases hm : m ∈ c.recognized
    · simp [hm]
    · simp [hm]

/-- Settles O42: the step concludes the absent record like any other, and the step after it is again the decode of its own
next word. -/
theorem unrecognizedWordIsNoTrap : Obligations.UnrecognizedWordIsNoTrap := by
  intro s h
  have hstep : step s = .next (s.present.conclude none) := h ▸ step_eq_conclude s
  refine ⟨_, _, hstep, rfl, rfl, by simp, by simp, by simp, by simp, ?_, step_eq_conclude _, by simp, by simp⟩
  exact fun w v rest hs => nextWord_after_conclude_of_supply hs none

/-- Settles O49: function code 0x0C selects syscall and 0x0D nothing; the classifier does not know the other two opcodes. -/
theorem systemWordsHaveNoEffectBeyondTheRecord : Obligations.SystemWordsHaveNoEffectBeyondTheRecord := by
  refine ⟨fun s h0 hfunct => ?_, fun c w h => decodeRecord_of_resolve_none ?_⟩
  · refine ⟨_, step_eq_conclude s, by simp, by simp, by simp, by simp, ?_⟩
    rw [State.conclude_result, decodeRecord_of_resolve (resolve_syscall h0 hfunct)]
  · obtain ⟨h0, hfunct⟩ | hcop0 | hcache := h
    · exact resolve_break h0 hfunct
    · exact resolve_of_class_none (by rw [hcop0]; rfl)
    · exact resolve_of_class_none (by rw [hcache]; rfl)

end Sys2Proof.Machine
end

section
/-! PROOFS. The statement about registered outputs (70_reset_and_hazards.md). -/

namespace Sys2Proof

/-- One cycle shifts the word's ports in at the back and the oldest ports out at the front, with no registers too. -/
theorem registeredCycle_shift (c : Config) (pipe : List Ports) (w : Word) :
    (registeredCycle c pipe w).1 :: (registeredCycle c pipe w).2 = pipe ++ [resultPorts (decodeRecord c w)] := by
  cases pipe <;> rfl

/-- Settles O56, by induction on the words with the registers' contents left general: a cycle takes one entry off the front
of the contents followed by the words' ports, and leaves the rest of that list to the cycles after it. -/
theorem registeredOutputsAreDelayedPorts : Obligations.RegisteredOutputsAreDelayedPorts := by
  intro c pipe ws
  induction ws generalizing pipe with
  | nil => simp [registeredOutputs]
  | cons w ws ih =>
    rw [registeredOutputs, ih, List.map_cons, List.append_cons, ← registeredCycle_shift, List.cons_append,
      List.length_cons, List.take_succ_cons]

end Sys2Proof
end
